-- ==== Sys2Proof/Word.lean ====
section
/-! DEFINITION. The word types of the block (spec/10_state.md, spec/30_encoding.md) and their plainest arithmetic.
Bit 0 is the least significant bit of every word (rule R14). -/

namespace Sys2Proof

/-- One byte of storage (rule R64: a buffer word occupies one byte). -/
abbrev Byte := BitVec 8

/-- One frame-buffer word: six significant bits (rules R39 and R64). -/
abbrev PixelWord := BitVec 6

/-- A 32-bit register of the register space (rules R30 to R36). -/
abbrev Reg32 := BitVec 32

/-- A command word (rule R92) or a response word (rule R97). -/
abbrev Word64 := BitVec 64

/-- `v[lo + len - 1 : lo]` as an unsigned number of `len` bits (rule R14). -/
abbrev slice {w : Nat} (v : BitVec w) (lo len : Nat) : BitVec len := v.extractLsb' lo len

end Sys2Proof
end

