-- ==== Sys2Proof/Syntax.lean ====
section
/-! DEFINITION. The commands of the command port, one constructor per row of spec/opcode_table.json (rule R93),
and the turns the three agents may take (rules R9 to R11). -/

namespace Sys2Proof

/-- The nine commands with their operand fields as rule R92 cuts them from the command word. Which field values are
legal is `Instr.wellFormed`'s business. -/
inductive Instr where
  /-- `WRCFG idx, value` (rule R241): write a staged configuration register. -/
  | wrcfg (idx : BitVec 8) (value : BitVec 32)
  /-- `RDREG idx` (rule R242): read a register. -/
  | rdreg (idx : BitVec 8)
  /-- `INIT` (rule R243): check the staged configuration and build the engine. -/
  | init
  /-- `LOOKUP ch, val` (rule R126): read one gamma table entry. -/
  | lookup (ch : BitVec 2) (val : BitVec 8)
  /-- `SETPX x, y, red, green, blue` (rule R141): write one pixel of the writable buffer. -/
  | setpx (x : BitVec 16) (y : BitVec 16) (red : BitVec 8) (green : BitVec 8) (blue : BitVec 8)
  /-- `CLEAR` (rule R145): zero the writable buffer. -/
  | clear
  /-- `COMMIT` (rule R164): ask for the writable buffer to become active. -/
  | commit
  /-- `START` (rule R245): start the transfer chain. -/
  | start
  /-- `STOP` (rule R246): ask the transfer chain to stop. -/
  | stop
deriving DecidableEq, Repr

/-- The colour channels, numbered 0, 1, 2 in this order (rule R16). -/
inductive Channel where
  | red
  | green
  | blue
deriving DecidableEq, Repr

/-- What may happen next: one turn of one of the three agents of rule R9. Rule R10 leaves the order open. -/
inductive Turn where
  /-- The host offers a command word at the command port (rule R90). -/
  | command (word : BitVec 64)
  /-- The background agent takes the step its phase enables (rule R11). -/
  | background
  /-- The environment injects the event `TIMEOUT` (rule R275). -/
  | timeout
  /-- The environment asserts `rst` (rule R310). -/
  | reset
deriving DecidableEq, Repr, Inhabited

end Sys2Proof
end

