-- ==== Sys2Proof/WellFormed.lean ====
section
/-! DEFINITION. Which commands are well formed: the restrictions on `idx` and `ch` of rules R36, R93 and R96.
Every other field is free. -/

namespace Sys2Proof

/-- An index `WRCFG` may write: `CFG[0..6]` (rules R36 and R93). -/
def cfgIndex (idx : BitVec 8) : Bool := idx.toNat ≤ 0x06

/-- An index `RDREG` may read: the rows of rule R36 that are not marked `IllegalCommand`. -/
def readIndex (idx : BitVec 8) : Bool :=
  idx.toNat ≤ 0x06 || (0x10 ≤ idx.toNat && idx.toNat ≤ 0x14) || (0x18 ≤ idx.toNat && idx.toNat ≤ 0x1E)

/-- The well-formed commands: exactly those that some legal command word stands for (rules R93 and R96). -/
def Instr.wellFormed : Instr → Bool
  | .wrcfg idx _ => cfgIndex idx
  | .rdreg idx => readIndex idx
  | .lookup ch _ => ch != 3
  | .init => true
  | .setpx _ _ _ _ _ => true
  | .clear => true
  | .commit => true
  | .start => true
  | .stop => true

end Sys2Proof
end

