-- ==== Sys2Proof/Decode.lean ====
section
/-! DEFINITION. The decoder and the encoder of the command port: formats R92, opcode map R93, operand assembly R94,
reserved and illegal encodings R96, byte order R65. -/

namespace Sys2Proof

/-- Why a word, or a run of bytes, is no command. Every one of them is answered `IllegalCommand` (rule R96), but for
`tooShort`, which names a channel that has not yet carried a whole word. -/
inductive DecodeError where
  /-- Bits 63:56 are none of the nine opcodes of rule R93. -/
  | reservedOpcode
  /-- A reserved bit of the format of rule R92 is not zero. -/
  | reservedBits
  /-- `WRCFG` or `RDREG` names an index rule R36 marks `IllegalCommand`. -/
  | registerIndex
  /-- `LOOKUP` names channel 3. -/
  | reservedChannel
  /-- Fewer than eight bytes have arrived. -/
  | tooShort
deriving DecidableEq, Repr

/-- One row of the opcode map of rule R93. -/
structure OpcodeRow where
  mnemonic : String
  pattern : Word64
  mask : Word64
deriving DecidableEq, Repr

/-- The opcode map of rule R93, in its order. -/
def opcodeTable : List OpcodeRow :=
  [ ⟨"WRCFG", 0x0100000000000000, 0xFF00FFFF00000000⟩,
    ⟨"RDREG", 0x0200000000000000, 0xFF00FFFFFFFFFFFF⟩,
    ⟨"INIT", 0x0300000000000000, 0xFFFFFFFFFFFFFFFF⟩,
    ⟨"LOOKUP", 0x0400000000000000, 0xFFFFFFFFFFFFFC00⟩,
    ⟨"SETPX", 0x1000000000000000, 0xFF00000000000000⟩,
    ⟨"CLEAR", 0x1100000000000000, 0xFFFFFFFFFFFFFFFF⟩,
    ⟨"COMMIT", 0x1200000000000000, 0xFFFFFFFFFFFFFFFF⟩,
    ⟨"START", 0x2000000000000000, 0xFFFFFFFFFFFFFFFF⟩,
    ⟨"STOP", 0x2100000000000000, 0xFFFFFFFFFFFFFFFF⟩ ]

/-- A word selects a row when `w & mask = match` (rule R93). -/
def OpcodeRow.selects (r : OpcodeRow) (w : Word64) : Bool := w &&& r.mask == r.pattern

/-- The opcode of each command (rule R93). -/
def opcodeOf : Instr → BitVec 8
  | .wrcfg _ _ => 0x01
  | .rdreg _ => 0x02
  | .init => 0x03
  | .lookup _ _ => 0x04
  | .setpx _ _ _ _ _ => 0x10
  | .clear => 0x11
  | .commit => 0x12
  | .start => 0x20
  | .stop => 0x21

/-- Format Z (rule R92): no operand, bits 55:0 zero. -/
def decodeZ (w : Word64) (i : Instr) : Except DecodeError Instr :=
  if slice w 0 56 = 0 then .ok i else .error .reservedBits

/-- Format R of `WRCFG` (rule R92): `idx` 55:48, bits 47:32 zero, `value` 31:0. -/
def decodeWrcfg (w : Word64) : Except DecodeError Instr :=
  if slice w 32 16 = 0 then .ok (.wrcfg (slice w 48 8) (slice w 0 32)) else .error .reservedBits

/-- Format R of `RDREG` (rule R92): `idx` 55:48, bits 47:0 zero. -/
def decodeRdreg (w : Word64) : Except DecodeError Instr :=
  if slice w 0 48 = 0 then .ok (.rdreg (slice w 48 8)) else .error .reservedBits

/-- Format L (rule R92): bits 55:10 zero, `ch` 9:8, `val` 7:0. -/
def decodeLookup (w : Word64) : Except DecodeError Instr :=
  if slice w 10 46 = 0 then .ok (.lookup (slice w 8 2) (slice w 0 8)) else .error .reservedBits

/-- Format P (rule R92): every bit below the opcode is an operand. -/
def decodeSetpx (w : Word64) : Instr :=
  .setpx (slice w 40 16) (slice w 24 16) (slice w 16 8) (slice w 8 8) (slice w 0 8)

/-- The row of rule R93 that the opcode selects, with the reserved bits of its format tested (rule R95, step 1). -/
def decodeRow (w : Word64) : Except DecodeError Instr :=
  let op := slice w 56 8
  if op = 0x01 then decodeWrcfg w
  else if op = 0x02 then decodeRdreg w
  else if op = 0x03 then decodeZ w .init
  else if op = 0x04 then decodeLookup w
  else if op = 0x10 then .ok (decodeSetpx w)
  else if op = 0x11 then decodeZ w .clear
  else if op = 0x12 then decodeZ w .commit
  else if op = 0x20 then decodeZ w .start
  else if op = 0x21 then decodeZ w .stop
  else .error .reservedOpcode

/-- The restriction of rule R93 that a command's operands break, if any: they are part of decoding. -/
def restricted : Instr → Option DecodeError
  | .wrcfg idx _ => if 0x06 < idx.toNat then some .registerIndex else none
  | .rdreg idx =>
    let n := idx.toNat
    if n ≤ 0x06 ∨ (0x10 ≤ n ∧ n ≤ 0x14) ∨ (0x18 ≤ n ∧ n ≤ 0x1E) then none else some .registerIndex
  | .lookup ch _ => if ch = 3 then some .reservedChannel else none
  | .init => none
  | .setpx _ _ _ _ _ => none
  | .clear => none
  | .commit => none
  | .start => none
  | .stop => none

/-- The decoder of rule R95, step 1: total on every 64-bit word, refusing by name. -/
def decode (w : Word64) : Except DecodeError Instr :=
  match decodeRow w with
  | .error e => .error e
  | .ok i =>
    match restricted i with
    | some e => .error e
    | none => .ok i

/-- The word of a command (rules R92 and R93). -/
def encode : Instr → Word64
  | .wrcfg idx value => 0x01#8 ++ idx ++ 0#16 ++ value
  | .rdreg idx => 0x02#8 ++ idx ++ 0#48
  | .init => 0x03#8 ++ 0#56
  | .lookup ch val => 0x04#8 ++ 0#46 ++ ch ++ val
  | .setpx x y red green blue => 0x10#8 ++ x ++ y ++ red ++ green ++ blue
  | .clear => 0x11#8 ++ 0#56
  | .commit => 0x12#8 ++ 0#56
  | .start => 0x20#8 ++ 0#56
  | .stop => 0x21#8 ++ 0#56

/-- The row of the opcode map a command belongs to (rule R93). -/
def rowOf : Instr → OpcodeRow
  | .wrcfg _ _ => ⟨"WRCFG", 0x0100000000000000, 0xFF00FFFF00000000⟩
  | .rdreg _ => ⟨"RDREG", 0x0200000000000000, 0xFF00FFFFFFFFFFFF⟩
  | .init => ⟨"INIT", 0x0300000000000000, 0xFFFFFFFFFFFFFFFF⟩
  | .lookup _ _ => ⟨"LOOKUP", 0x0400000000000000, 0xFFFFFFFFFFFFFC00⟩
  | .setpx _ _ _ _ _ => ⟨"SETPX", 0x1000000000000000, 0xFF00000000000000⟩
  | .clear => ⟨"CLEAR", 0x1100000000000000, 0xFFFFFFFFFFFFFFFF⟩
  | .commit => ⟨"COMMIT", 0x1200000000000000, 0xFFFFFFFFFFFFFFFF⟩
  | .start => ⟨"START", 0x2000000000000000, 0xFFFFFFFFFFFFFFFF⟩
  | .stop => ⟨"STOP", 0x2100000000000000, 0xFFFFFFFFFFFFFFFF⟩

/-- The `count` bytes of a number, least significant first (rule R65). -/
def littleEndian : Nat → Nat → List Byte
  | 0, _ => []
  | count + 1, v => BitVec.ofNat 8 v :: littleEndian count (v / 256)

/-- The number some bytes carry, least significant first (rule R65). -/
def ofLittleEndian : List Byte → Nat
  | [] => 0
  | b :: bs => b.toNat + 256 * ofLittleEndian bs

/-- A 64-bit word, a command or a response, as a narrower channel carries it (rule R65). -/
def wordBytes (w : Word64) : List Byte := littleEndian 8 w.toNat

/-- A command word as a narrower channel carries it (rule R65). -/
def encodeBytes (i : Instr) : List Byte := wordBytes (encode i)

/-- The command at the head of some bytes, with the bytes after it: there is one length, eight bytes (rule R92). -/
def decodeBytes (bs : List Byte) : Except DecodeError (Instr × List Byte) :=
  if bs.length < 8 then .error .tooShort
  else
    match decode (BitVec.ofNat 64 (ofLittleEndian (bs.take 8))) with
    | .error e => .error e
    | .ok i => .ok (i, bs.drop 8)

/-- The instruction the decoder reads from `nbits` bits `w`, numbered as spec/opcode_table.json numbers them: the word is
laid out in bytes, least significant first, the bits above `nbits` zero, and given to the byte decoder. -/
def decodeTableWord (nbits w : Nat) : Option Instr :=
  match decodeBytes (littleEndian 8 (w % 2 ^ nbits)) with
  | .error _ => none
  | .ok (i, _) => some i

end Sys2Proof
end

