-- ==== Sys2Proof/Config.lean ====
section
/-! DEFINITION. The static parameters of rule R7 and the free values of the model. An `opaque` constant has no body:
nothing can be proved of its value, so a claim that mentions it holds for every value. -/

namespace Sys2Proof.Config

/-- `MAX_BIT_DEPTH` (rule R7). -/
abbrev maxBitDepth : Nat := 16

/-- `MAX_ROWS` (rule R7). -/
abbrev maxRows : Nat := 64

/-- How many descriptors the ring can hold: the largest `D = H * N`, 32 * 16 (rule R24). -/
abbrev maxDescriptors : Nat := 512

/-- `MAX_COLUMNS - 1`: the parameter is open, `1 <= MAX_COLUMNS <= 65535` (rule R7). Log entry 2. -/
opaque maxColumnsPred : Fin 65535

/-- `FLICKER_BUDGET_TICKS - 1`: the parameter is an open positive natural (rule R7). Log entry 2. -/
opaque flickerBudgetPred : Nat

/-- `TRANSFER_TIMEOUT_TICKS - 1`: the parameter is an open positive natural; no rule reads it, the expiry of the window is the
turn `timeout` (rules R7 and R275). Log entry 2. -/
opaque transferTimeoutPred : Nat

/-- The turn taken when `State.turns` prescribes none: rule R10 fixes no order of the agents and rule R275 leaves the
timeouts to the environment. Applied to the counter `State.freeCount`. Log entry 1. -/
opaque freeTurn : Nat → Turn

/-- How long the enable of a pulse cut in its hold was asserted, before it is bounded by the hold (rule R276,
spec/93_implementation_defined.md U14) by a `TIMEOUT`, or by `rst` (DESIGN CHOICE). Applied to the counter `State.freeCount`. Log entry 4. -/
opaque freeHoldCut : Nat → Nat

end Sys2Proof.Config
end

