-- ==== Sys2Proof/Machine/State.lean ====
section
/-! DEFINITION. The state of the block (rule R20 of spec/10_state.md) as plain data, the fields the model adds to it
(INVENTORY.md, State), the reasons a step can stop, and the state after reset (rule R44). -/

namespace Sys2Proof.Machine

/-- `ST`, the engine state (rule R21). -/
inductive EngineState where
  | uninitialized
  | ready
  | running
  | stopped
deriving DecidableEq, Repr

/-- `PH`, the phase of the background agent (rule R25); the reserved values 6 and 7 are never taken. -/
inductive Phase where
  | off
  | fetch
  | shift
  | latch
  | hold
  | done
deriving DecidableEq, Repr

/-- The index of a frame buffer: 0 for buffer A, 1 for buffer B (rules R22 and R39). -/
inductive BufId where
  | A
  | B
deriving DecidableEq, Repr

/-- The writable index is `1 - ACTIVE` (rule R22). -/
def BufId.other : BufId → BufId
  | .A => .B
  | .B => .A

/-- Seven 32-bit configuration registers, in the index order of rule R30: `CFG[0..6]` and `ACT[0..6]`. -/
structure ConfigRegs where
  rows : Reg32
  columns : Reg32
  depth : Reg32
  gammaR : Reg32
  gammaG : Reg32
  gammaB : Reg32
  baseTick : Reg32
deriving DecidableEq, Repr

/-- A descriptor record with the fields and widths of rule R38. -/
structure Descriptor where
  srcBuf : BufId
  srcOff : BitVec 32
  len : BitVec 16
  dst : BitVec 1
  next : BitVec 16
  row : BitVec 5
  plane : BitVec 4
  hold : BitVec 48
deriving DecidableEq, Repr

/-- `LUT[c][i]`: three channels of 256 entries of 16 bits (rule R37). -/
structure GammaTable where
  red : Vector (BitVec 16) 256
  green : Vector (BitVec 16) 256
  blue : Vector (BitVec 16) 256
deriving DecidableEq, Repr

/-- An array of words by word address, one byte of storage each: (address, byte) pairs in the canonical form that
`Memory.wf` of Machine/Ops.lean states. -/
abbrev Memory := List Host.Cell

/-- The panel pins (rule R41), at the level they have between two steps; `irq_fault` is not stored, it equals `FAULT`. -/
structure Pins where
  data : BitVec 6
  clkOut : Bool
  lat : Bool
  oeN : Bool
  addr : BitVec 5
deriving DecidableEq, Repr

/-- One record of the observation (rule R12). -/
inductive Record where
  /-- A response word, cut into its two fields (rule R97). -/
  | rsp (status : BitVec 8) (data : BitVec 32)
  /-- One completed latch (rule R215). -/
  | pulse (row : BitVec 5) (plane : BitVec 4) (buf : BufId) (data : List PixelWord) (hold : BitVec 48)
  /-- One `TIMEOUT` event (rule R276). -/
  | abort (d : BitVec 16)
deriving DecidableEq, Repr

/-- What happens on the pins inside one step (rules R214 to R216). -/
inductive PinEvent where
  /-- `DATA <- data; CLK_OUT: 0 -> 1 -> 0`. -/
  | shiftClock (data : BitVec 6)
  /-- `ADDR <- addr; LAT: 0 -> 1 -> 0`. -/
  | latchPulse (addr : BitVec 5)
  /-- `OE_N = 0` for `periods` periods of `clk`, then 1. -/
  | enable (periods : BitVec 48)
deriving DecidableEq, Repr

/-- The open parameters of rule R7 that a rule reads; fixed for one machine, no step writes them. -/
structure Params where
  /-- `MAX_COLUMNS`. -/
  maxColumns : Nat
  /-- `FLICKER_BUDGET_TICKS`. -/
  flickerBudget : Nat
deriving DecidableEq, Repr

/-- The complete state of the block (rule R20), the response and command registers of rule R40, and, after the mark,
the fields that are the model's own. -/
structure State where
  /-- `ST` (rule R21). -/
  st : EngineState
  /-- `ACTIVE` (rule R22). -/
  active : BufId
  /-- `PENDING` (rule R23). -/
  pending : Bool
  /-- `STOP_REQ` (rule R27). -/
  stopReq : Bool
  /-- `RETRY_USED` (rule R28). -/
  retryUsed : Bool
  /-- `FAULT` (rule R29). -/
  fault : Bool
  /-- `CUR`, the schedule pointer (rule R24). -/
  cur : BitVec 16
  /-- `PH` (rule R25). -/
  ph : Phase
  /-- `SHIFT_K` (rule R25). -/
  shiftK : BitVec 16
  /-- `DREG` (rule R26). -/
  dreg : Descriptor
  /-- `SR`, the shift mirror, by column (rule R42). -/
  sr : Memory
  /-- `CFG[0..6]` (rule R30). -/
  cfg : ConfigRegs
  /-- `ACT[0..6]` (rule R31). -/
  act : ConfigRegs
  /-- `OOB_COUNT` (rule R33). -/
  oobCount : Reg32
  /-- `FAULT_COUNT` (rule R34). -/
  faultCount : Reg32
  /-- `FAULT_INFO` (rule R35). -/
  faultInfo : Reg32
  /-- `LUT` (rule R37). -/
  lut : GammaTable
  /-- `DESC`, as many entries as the largest ring has (rules R24 and R38). -/
  desc : Vector Descriptor Config.maxDescriptors
  /-- `BUF[0]`, buffer A (rule R39). -/
  bufA : Memory
  /-- `BUF[1]`, buffer B (rule R39). -/
  bufB : Memory
  /-- The panel pins (rule R41). -/
  pins : Pins
  /-- `CMD`, the command latch (rule R40). -/
  cmd : Word64
  /-- `RSP_REG`, the last response, which drives `rsp_data` (rules R40 and R90). -/
  rspReg : Word64
  /-- `rsp_valid` (rule R90): the step just taken presented a response. -/
  rspValid : Bool
  /-- MODEL: the observation so far, oldest record first (rule R12). -/
  observed : List Record
  /-- MODEL: the pin waveform so far, oldest event first (rules R214 to R216). -/
  wave : List PinEvent
  /-- MODEL: the turns the agents will take next, first one first; when it is empty the next turn is free (rule R10). -/
  turns : List Turn
  /-- MODEL: how many free values have been drawn. -/
  freeCount : Nat
  /-- MODEL: the open static parameters (rule R7). -/
  params : Params
deriving DecidableEq, Repr

/-- Why a step stops. Both are accesses to an index the spec says does not exist; the invariant of Sys2Proof/Safety.lean
rules both out, so neither happens on a run from reset. -/
inductive Fault where
  /-- `BG_FETCH` with `CUR` past the last entry of `DESC` (rules R24 and R60). Safe: the spec gives no such entry. -/
  | noSuchDescriptor
  /-- `SETPX` or `BG_SHIFT` forms a word address outside the buffer space `[0, BUF_WORDS)` (rule R60). Safe: the spec
  gives no such word. -/
  | noSuchBufferWord
deriving DecidableEq, Repr

/-- Why a step has no meaning. -/
inductive Refusal where
  /-- The instruction has no meaning in the model yet. Safe: the machine stops. No arm of `exec` answers it. -/
  | notModelled (mnemonic : String)
deriving DecidableEq, Repr

/-- Seven zero registers (rule R44). -/
def ConfigRegs.zero : ConfigRegs := ⟨0, 0, 0, 0, 0, 0, 0⟩

/-- A record of zeros, for the registers whose reset value rule R44 leaves unspecified. DESIGN CHOICE, log entry 3. -/
def Descriptor.zero : Descriptor := ⟨.A, 0, 0, 0, 0, 0, 0, 0⟩

/-- The table before the first `INIT`. DESIGN CHOICE, log entry 3. -/
def GammaTable.zero : GammaTable := ⟨Vector.replicate 256 0, Vector.replicate 256 0, Vector.replicate 256 0⟩

/-- The idle levels of rule R41 with the given address: `OE_N` is 1, the panel dark. -/
def Pins.idle (addr : BitVec 5) : Pins := ⟨0, false, false, true, addr⟩

/-- The state after reset (rule R44): every register, flag and counter as the spec states; `DREG`, `SR`, `LUT`, `DESC`, the
buffers, `CMD` and `RSP_REG`, which it leaves unspecified, are zero (log entry 3). No turn is prescribed. -/
def State.reset : State where
  st := .uninitialized
  active := .A
  pending := false
  stopReq := false
  retryUsed := false
  fault := false
  cur := 0
  ph := .off
  shiftK := 0
  dreg := Descriptor.zero
  sr := []
  cfg := ConfigRegs.zero
  act := ConfigRegs.zero
  oobCount := 0
  faultCount := 0
  faultInfo := 0
  lut := GammaTable.zero
  desc := Vector.replicate Config.maxDescriptors Descriptor.zero
  bufA := []
  bufB := []
  pins := Pins.idle 0
  cmd := 0
  rspReg := 0
  rspValid := false
  observed := []
  wave := []
  turns := []
  freeCount := 0
  params := ⟨Config.maxColumnsPred.val + 1, Config.flickerBudgetPred + 1⟩

end Sys2Proof.Machine
end

