-- ==== Sys2Proof/Machine/Geometry.lean ====
section
/-! DEFINITION. The derived quantities of rule R8 and the buffer layout of rules R61 and R62, on unbounded naturals
(rule R183). -/

namespace Sys2Proof.Machine

/-- `H = rows / 2`, the number of scan rows (rule R8). -/
def ConfigRegs.scanRows (c : ConfigRegs) : Nat := c.rows.toNat / 2

/-- `N`, the bit depth (rule R6). -/
def ConfigRegs.planes (c : ConfigRegs) : Nat := c.depth.toNat

/-- `M = 2^N - 1`, the largest intensity (rule R8). -/
def ConfigRegs.maxIntensity (c : ConfigRegs) : Nat := 2 ^ c.planes - 1

/-- `D = H * N`, the number of descriptors (rule R8). -/
def ConfigRegs.descriptors (c : ConfigRegs) : Nat := c.scanRows * c.planes

/-- `BUF_WORDS = H * N * columns` (rule R8). -/
def ConfigRegs.bufWords (c : ConfigRegs) : Nat := c.scanRows * c.planes * c.columns.toNat

/-- `hold(b) = base_tick * 2^b` (rule R8). -/
def ConfigRegs.holdOf (c : ConfigRegs) (b : Nat) : Nat := c.baseTick.toNat * 2 ^ b

/-- `T_cycle = H * M * base_tick` (rule R8). -/
def ConfigRegs.cycleTicks (c : ConfigRegs) : Nat := c.scanRows * c.maxIntensity * c.baseTick.toNat

/-- `addr(r, b, x) = (r * N + b) * columns + x` (rule R61). -/
def ConfigRegs.wordAddr (c : ConfigRegs) (r b x : Nat) : Nat := (r * c.planes + b) * c.columns.toNat + x

/-- `r = y mod H`, the scan row of panel row `y` (rule R62). -/
def ConfigRegs.scanRowOf (c : ConfigRegs) (y : Nat) : Nat := y % c.scanRows

/-- `s = 3 * (y div H)`, the lane shift of panel row `y`: 0 top, 3 bottom (rule R62). -/
def ConfigRegs.laneShift (c : ConfigRegs) (y : Nat) : Nat := 3 * (y / c.scanRows)

/-- The raw Q8.8 gamma exponent of a channel (rules R6 and R16). -/
def ConfigRegs.gammaRaw (c : ConfigRegs) : Channel → Nat
  | .red => c.gammaR.toNat
  | .green => c.gammaG.toNat
  | .blue => c.gammaB.toNat

end Sys2Proof.Machine
end

