-- ==== Sys2Proof/Machine/Flags.lean ====
section
/-! DEFINITION. The encodings of the state enumerations, every flag and status computation, the views that are functions
of the state (rules R21, R25, R32, R35, R41, R211, R90), the saturating counters and the acceptance matrix R240. -/

namespace Sys2Proof.Machine

/-- The encoding of `ST` (rule R21). -/
def EngineState.code : EngineState → BitVec 2
  | .uninitialized => 0
  | .ready => 1
  | .running => 2
  | .stopped => 3

/-- The encoding of `PH` (rule R25). -/
def Phase.code : Phase → BitVec 3
  | .off => 0
  | .fetch => 1
  | .shift => 2
  | .latch => 3
  | .hold => 4
  | .done => 5

/-- The encoding of a buffer index (rule R22). -/
def BufId.code : BufId → BitVec 1
  | .A => 0
  | .B => 1

/-- A pulse is in flight exactly when `PH` is 2, 3, 4 or 5 (rule R25). -/
def Phase.inFlight : Phase → Bool
  | .off => false
  | .fetch => false
  | .shift => true
  | .latch => true
  | .hold => true
  | .done => true

/-- The four states of the scan sequencer (rule R211). -/
inductive SequencerState where
  | idle
  | shift
  | latch
  | hold
deriving DecidableEq, Repr

/-- The sequencer state is a function of `PH` (rule R211). -/
def Phase.sequencer : Phase → SequencerState
  | .off => .idle
  | .fetch => .idle
  | .done => .idle
  | .shift => .shift
  | .latch => .latch
  | .hold => .hold

/-- `STATUS` (rule R32): `ST` 1:0, `PENDING` 2, `ACTIVE` 3, `RETRY_USED` 4, `FAULT` 5, `PH` 10:8, zero elsewhere. -/
def State.status (s : State) : Reg32 :=
  0#21 ++ s.ph.code ++ 0#2 ++ BitVec.ofBool s.fault ++ BitVec.ofBool s.retryUsed ++ s.active.code ++
    BitVec.ofBool s.pending ++ s.st.code

/-- The value `FAULT_INFO` takes at a `TIMEOUT`, `(PH << 16) | CUR` (rules R35 and R276). -/
def State.faultWord (s : State) : Reg32 := 0#13 ++ s.ph.code ++ s.cur

/-- `min(count + 1, 2^32 - 1)`: the two counters saturate (rules R33 and R34). -/
def saturatingInc (count : Reg32) : Reg32 := BitVec.ofNat 32 (min (count.toNat + 1) (2 ^ 32 - 1))

/-- The pin `irq_fault` equals `FAULT` (rule R41). -/
def State.irqFault (s : State) : Bool := s.fault

/-- `cmd_ready` between two steps: 0 while a `STOP` waits, 1 otherwise, in every engine state (rule R90). -/
def State.cmdReady (s : State) : Bool := !s.stopReq

/-- The pin `rsp_data` shows the response register (rules R40 and R90). -/
def State.rspData (s : State) : Word64 := s.rspReg

/-- `TIMEOUT` is enabled when a pulse is in flight (rule R275). -/
def State.timeoutEnabled (s : State) : Bool := s.st == .running && s.ph.inFlight

/-- The acceptance matrix of rule R240: which command each engine state accepts. -/
def accepts : Instr → EngineState → Bool
  | .wrcfg _ _, .uninitialized => true
  | .wrcfg _ _, .ready => true
  | .wrcfg _ _, .running => false
  | .wrcfg _ _, .stopped => true
  | .rdreg _, _ => true
  | .init, .uninitialized => true
  | .init, .ready => true
  | .init, .running => false
  | .init, .stopped => true
  | .lookup _ _, .uninitialized => false
  | .lookup _ _, .ready => true
  | .lookup _ _, .running => true
  | .lookup _ _, .stopped => true
  | .setpx _ _ _ _ _, .uninitialized => false
  | .setpx _ _ _ _ _, .ready => true
  | .setpx _ _ _ _ _, .running => true
  | .setpx _ _ _ _ _, .stopped => true
  | .clear, .uninitialized => false
  | .clear, .ready => true
  | .clear, .running => true
  | .clear, .stopped => true
  | .commit, .uninitialized => false
  | .commit, .ready => true
  | .commit, .running => true
  | .commit, .stopped => true
  | .start, .uninitialized => false
  | .start, .ready => true
  | .start, .running => false
  | .start, .stopped => true
  | .stop, .uninitialized => false
  | .stop, .ready => false
  | .stop, .running => true
  | .stop, .stopped => false

end Sys2Proof.Machine
end

