-- ==== Sys2Proof/Machine/Ops.lean ====
section
/-! DEFINITION. The named operations over memory, responses and the schedule: memory (rules R39, R60 to R64), responses
and the one way a command raises an error (rules R97, R98, R270), taking a `SequencerFault` with its two outcomes and the
return from it (rules R276 to R278, R284), and the guard every command passes (rule R95). -/

namespace Sys2Proof.Machine

/-! ### Memory -/

/-- What an address nothing has written reads as. The spec leaves buffer words and `SR` positions unspecified until they
are written and allows a model to zero them (rule R44, U12). DESIGN CHOICE, log entry 3. -/
def Memory.unlisted : Byte := 0

/-- The byte stored at a word address. -/
def Memory.read : Memory → Nat → Byte
  | [], _ => Memory.unlisted
  | (b, v) :: m, a => if a = b then v else Memory.read m a

/-- Store a byte at a word address, keeping the canonical form. -/
def Memory.write : Memory → Nat → Byte → Memory
  | [], a, v => if v = Memory.unlisted then [] else [(a, v)]
  | (b, u) :: m, a, v =>
    if a < b then (if v = Memory.unlisted then (b, u) :: m else (a, v) :: (b, u) :: m)
    else if a = b then (if v = Memory.unlisted then m else (a, v) :: m)
    else (b, u) :: Memory.write m a v

/-- The canonical form: addresses strictly rising, no entry equal to what an unlisted address reads as. -/
def Memory.wf : Memory → Bool
  | [] => true
  | (a, v) :: m => v != Memory.unlisted && m.all (fun c => decide (a < c.1)) && Memory.wf m

/-- `MemRead(k, a, 1)`: a word is six bits, in one byte of storage (rules R15, R39 and R64). -/
def Memory.readWord (m : Memory) (a : Nat) : PixelWord := (m.read a).setWidth 6

/-- `MemWrite(k, a, 1, w)`: bits 7:6 of the byte stored are zero (rules R15 and R39). -/
def Memory.writeWord (m : Memory) (a : Nat) (w : PixelWord) : Memory := m.write a (w.setWidth 8)

/-- Write zero to the words at addresses `0 .. n` (the loop of rules R145 and R243 B3), the others untouched. -/
def Memory.zeroBelow (m : Memory) (n : Nat) : Memory := m.filter (fun c => decide (n ≤ c.1))

/-- Every byte stored has bits 7:6 zero (rule R43 (d)). -/
def Memory.sixBit (m : Memory) : Bool := m.all (fun c => decide (c.2.toNat < 64))

/-- `BUF[k]` (rule R39). -/
def State.buf (s : State) : BufId → Memory
  | .A => s.bufA
  | .B => s.bufB

/-- Replace the contents of `BUF[k]`. -/
def State.withBuf (s : State) (k : BufId) (m : Memory) : State :=
  match k with
  | .A => { s with bufA := m }
  | .B => { s with bufB := m }

/-- The index of the writable buffer, `W = 1 - ACTIVE` (rules R22 and R63). -/
def State.writable (s : State) : BufId := s.active.other

/-- The buffer space has the word addresses `[0, BUF_WORDS)` of the active configuration (rule R60). -/
def ConfigRegs.inBufferSpace (c : ConfigRegs) (a : Nat) : Bool := decide (a < c.bufWords)

/-! ### Responses and errors -/

/-- The error kinds (rules R98 and R271). -/
inductive ErrorKind where
  | configError
  | outOfBounds
  | sequencerFault
  | stateError
  | illegalCommand
deriving DecidableEq, Repr

/-- The status code of each kind (rule R98). -/
def ErrorKind.code : ErrorKind → BitVec 8
  | .configError => 0x01
  | .outOfBounds => 0x02
  | .sequencerFault => 0x03
  | .stateError => 0x04
  | .illegalCommand => 0x05

/-- The status code `OK` (rule R98). -/
def statusOk : BitVec 8 := 0x00

/-- The response word: `status` 63:56, zero 55:32, `data` 31:0 (rule R97). -/
def responseWord (status : BitVec 8) (data : Reg32) : Word64 := status ++ 0#24 ++ data

/-- A response word as a narrower channel carries it, least significant byte first (rule R65). -/
def responseBytes (status : BitVec 8) (data : Reg32) : List Byte := wordBytes (responseWord status data)

/-- `emit RSP(status, data)`: the response is presented and joins the observation (rules R12, R40, R90 and R97). -/
def State.emitRsp (s : State) (status : BitVec 8) (data : Reg32) : State :=
  { s with rspReg := responseWord status data, rspValid := true, observed := s.observed ++ [.rsp status data] }

/-- `respond(data)` ends a command with `RSP(OK, data)` (rule R15). -/
def State.respond (s : State) (data : Reg32) : State := s.emitRsp statusOk data

/-- `raise kind(info)` ends a command with `RSP(code(kind), info)`; nothing else is written (rule R270). -/
def State.raise (s : State) (kind : ErrorKind) (info : Reg32) : State := s.emitRsp kind.code info

/-- The answer to an illegal command: `RSP(IllegalCommand, 0)`, no state changed (rule R96). -/
def State.illegal (s : State) : State := s.raise .illegalCommand 0

/-- The answer to a command the engine state refuses: `RSP(StateError, ST)`, no state changed (rules R95 and R240). -/
def State.stateError (s : State) : State := s.raise .stateError (s.st.code.setWidth 32)

/-- The decode order of rule R95 for a command whose word selected a row: the restrictions on its operands, then the
acceptance matrix, then the command's own rule. The first failing test decides (rule R281). -/
def State.command (s : State) (i : Instr) (own : Host.Outcome State Fault Refusal) : Host.Outcome State Fault Refusal :=
  match restricted i with
  | some _ => .next s.illegal
  | none => if accepts i s.st then own else .next s.stateError

/-! ### Taking a SequencerFault, and the return from it -/

/-- How many periods the enable of a pulse cut in `PH_HOLD` was asserted: a free value between 0 and the hold. For a
`TIMEOUT` this is rule R276 and U14; for a cut by `rst` the spec says nothing and the same bounds are the model's DESIGN
CHOICE. Log entry 4. -/
def State.cutPeriods (s : State) : BitVec 48 :=
  BitVec.ofNat 48 (Config.freeHoldCut s.freeCount % (s.dreg.hold.toNat + 1))

/-- The pulse in flight is abandoned where it stands, by a `TIMEOUT` or by `rst`: in `PH_HOLD` its enable was asserted for
part of the hold (rule R276; for `rst` log entry 4). -/
def State.abandonPulse (s : State) : State :=
  match s.ph with
  | .hold => { s with wave := s.wave ++ [.enable s.cutPeriods], freeCount := s.freeCount + 1 }
  | .off => s
  | .fetch => s
  | .shift => s
  | .latch => s
  | .done => s

/-- `RESTART` (rule R277): the first fault of a cycle. -/
def State.restart (s : State) : State :=
  { s with retryUsed := true, cur := 0, shiftK := 0, ph := .fetch }

/-- `ESCALATE` (rule R278): a second fault before a cycle has completed; a waiting `STOP` is answered. -/
def State.escalate (s : State) : State :=
  let t := { s with fault := true, st := .stopped, ph := .off }
  if s.stopReq then { t with stopReq := false }.raise .sequencerFault 0 else t

/-- The bookkeeping of `TIMEOUT` (rule R276): count, `FAULT_INFO`, pins to idle, `ABORT(CUR)`. -/
def State.recordFault (s : State) : State :=
  { s with
    faultCount := saturatingInc s.faultCount
    faultInfo := s.faultWord
    pins := Pins.idle s.pins.addr
    observed := s.observed ++ [.abort s.cur] }

/-- Taking a `SequencerFault` (rules R276 and R283): the bookkeeping, then the restart or the escalation. -/
def State.takeFault (s : State) : State :=
  let t := s.abandonPulse.recordFault
  if t.retryUsed then t.escalate else t.restart

/-- The environment event `TIMEOUT`: nothing happens at a moment at which it is not enabled (rules R275 and R276). -/
def State.timeout (s : State) : State := if s.timeoutEnabled then s.takeFault else s

/-- The return from an escalated fault, which is also every start of the chain (rules R245 and R284): it restores
nothing, clears `FAULT` and `RETRY_USED` and begins a new cycle at descriptor 0. -/
def State.startChain (s : State) : State :=
  { s with fault := false, retryUsed := false, cur := 0, shiftK := 0, st := .running, ph := .fetch }

end Sys2Proof.Machine
end

