-- ==== Sys2Proof/Machine/Operands.lean ====
section
/-! DEFINITION. The operand forms: the register index map (rule R36), the channel operand (rule R16), and the level operands
that index the gamma table (rule R94). -/

namespace Sys2Proof.Machine

/-- `CFG[idx] <- value`; an index past 6 names no register (rules R30 and R241). -/
def ConfigRegs.write (c : ConfigRegs) (idx : BitVec 8) (value : Reg32) : Option ConfigRegs :=
  match idx.toNat with
  | 0 => some { c with rows := value }
  | 1 => some { c with columns := value }
  | 2 => some { c with depth := value }
  | 3 => some { c with gammaR := value }
  | 4 => some { c with gammaG := value }
  | 5 => some { c with gammaB := value }
  | 6 => some { c with baseTick := value }
  | _ => none

/-- Register `n` of a bank of seven, in the order of rule R30. -/
def ConfigRegs.read (c : ConfigRegs) (n : Nat) : Option Reg32 :=
  match n with
  | 0 => some c.rows
  | 1 => some c.columns
  | 2 => some c.depth
  | 3 => some c.gammaR
  | 4 => some c.gammaG
  | 5 => some c.gammaB
  | 6 => some c.baseTick
  | _ => none

/-- `REG[idx]`, the index map of rule R36; `none` where the map says `IllegalCommand`. -/
def State.readReg (s : State) (idx : BitVec 8) : Option Reg32 :=
  let n := idx.toNat
  if n < 0x10 then s.cfg.read n
  else if n = 0x10 then some s.status
  else if n = 0x11 then some s.oobCount
  else if n = 0x12 then some s.faultCount
  else if n = 0x13 then some s.faultInfo
  else if n = 0x14 then some (s.cur.setWidth 32)
  else if n < 0x18 then none
  else s.act.read (n - 0x18)

/-- The channel a channel operand names; 3 is reserved (rules R16 and R92). -/
def channelOf (ch : BitVec 2) : Option Channel :=
  match ch.toNat with
  | 0 => some .red
  | 1 => some .green
  | 2 => some .blue
  | _ => none

/-- `LUT[c]` (rule R37). -/
def GammaTable.channel (t : GammaTable) : Channel → Vector (BitVec 16) 256
  | .red => t.red
  | .green => t.green
  | .blue => t.blue

/-- `lookup(c, v) = LUT[c][v]` (rule R126). -/
def GammaTable.lookup (t : GammaTable) (c : Channel) (v : BitVec 8) : BitVec 16 := (t.channel c)[v.toNat]'v.isLt

end Sys2Proof.Machine
end

