-- ==== Sys2Proof/Machine/GammaLut.lean ====
section
/-! DEFINITION. Sub-block 1, the gamma table (spec/40_gamma_lut.md): its contents, built by `INIT`, and the command
`LOOKUP`. -/

namespace Sys2Proof.Machine

/-- The test of rule R122 for a candidate intensity `k`: `k = 0` or `(2k - 1)^256 * 255^p < (2M)^256 * i^p`, with the two
factors that do not depend on `k` given as `scale = 255^p` and `bound = (2M)^256 * i^p`. -/
def gammaFits (scale bound k : Nat) : Bool := k == 0 || decide ((2 * k - 1) ^ 256 * scale < bound)

/-- Find the largest intensity that fits, bit by bit from the most significant: `k` holds the bits decided so far, the
last argument counts the bits still open. -/
def gammaSearch (scale bound : Nat) : Nat → Nat → Nat
  | k, 0 => k
  | k, b + 1 => gammaSearch scale bound (if gammaFits scale bound (k + 2 ^ b) then k + 2 ^ b else k) b

/-- `LUT[c][i]` for the raw exponent `p` and bit depth `n`: the largest `k` in `[0, 2^n - 1]` that passes the test of rule
R122. -/
def gammaEntry (p n i : Nat) : Nat := gammaSearch (255 ^ p) ((2 * (2 ^ n - 1)) ^ 256 * i ^ p) 0 n

/-- One channel of the table, 256 entries of 16 bits (rules R37 and R121). -/
def buildChannel (p n : Nat) : Vector (BitVec 16) 256 := Vector.ofFn fun i => BitVec.ofNat 16 (gammaEntry p n i.val)

/-- The table of a configuration: `build(gamma_r, gamma_g, gamma_b)` (rules R120 and R121). -/
def buildTable (c : ConfigRegs) : GammaTable where
  red := buildChannel (c.gammaRaw .red) c.planes
  green := buildChannel (c.gammaRaw .green) c.planes
  blue := buildChannel (c.gammaRaw .blue) c.planes

/-- `LOOKUP`'s own rule: answer `zext_32(LUT[ch][val])` (rule R126). -/
def lookupAnswer (ch : BitVec 2) (val : BitVec 8) (s : State) : State :=
  match channelOf ch with
  | some c => s.respond ((s.lut.lookup c val).setWidth 32)
  | none => s.illegal

/-- `LOOKUP ch, val` (rule R126). -/
def execLookup (ch : BitVec 2) (val : BitVec 8) (s : State) : Host.Outcome State Fault Refusal :=
  s.command (.lookup ch val) (.next (lookupAnswer ch val s))

end Sys2Proof.Machine
end

