-- ==== Sys2Proof/Machine/BitplaneEncoder.lean ====
section
/-! DEFINITION. Sub-block 2, the bit-plane encoder (spec/41_bitplane_encoder.md): the commands `SETPX` and `CLEAR`. -/

namespace Sys2Proof.Machine

/-- The N-bit intensities of one pixel, one per channel (rule R143). -/
structure Intensity where
  red : BitVec 16
  green : BitVec 16
  blue : BitVec 16
deriving DecidableEq, Repr

/-- `V[c] <- lookup(c, level_c)`: the three levels are converted independently (rule R143). -/
def GammaTable.convert (t : GammaTable) (red green blue : BitVec 8) : Intensity :=
  ⟨t.lookup .red red, t.lookup .green green, t.lookup .blue blue⟩

/-- `t`, the three bits of plane `b`: `bit(V[0], b) | bit(V[1], b) << 1 | bit(V[2], b) << 2` (rule R141). -/
def Intensity.planeBits (v : Intensity) (b : Nat) : PixelWord :=
  0#3 ++ BitVec.ofBool (v.blue.getLsbD b) ++ BitVec.ofBool (v.green.getLsbD b) ++ BitVec.ofBool (v.red.getLsbD b)

/-- `(w & ~(0b111 << s)) | (t << s)`: one lane of a word replaced, the other kept (rules R141 and R143). -/
def replaceLane (w : PixelWord) (s : Nat) (t : PixelWord) : PixelWord := (w &&& ~~~(7#6 <<< s)) ||| (t <<< s)

/-- The update of plane `b` by `SETPX`: read, replace the pixel's lane, write back (rule R143). -/
def writePlane (c : ConfigRegs) (x y : Nat) (v : Intensity) (m : Memory) (b : Nat) : Memory :=
  let a := c.wordAddr (c.scanRowOf y) b x
  m.writeWord a (replaceLane (m.readWord a) (c.laneShift y) (v.planeBits b))

/-- The N updates of `SETPX`, in increasing order of the plane (rule R143). -/
def writePixel (c : ConfigRegs) (x y : Nat) (v : Intensity) (m : Memory) : Memory :=
  (List.range c.planes).foldl (writePlane c x y v) m

/-- The bounds check of `SETPX`: both coordinates, unsigned (rules R94 and R142). -/
def ConfigRegs.inBounds (c : ConfigRegs) (x y : BitVec 16) : Bool :=
  decide (x.toNat < c.columns.toNat) && decide (y.toNat < c.rows.toNat)

/-- An out-of-bounds `SETPX`: count and raise `OutOfBounds(0)`, no buffer word written (rule R142). -/
def State.outOfBounds (s : State) : State := { s with oobCount := saturatingInc s.oobCount }.raise .outOfBounds 0

/-- Every word address `SETPX` forms lies in the buffer space (rules R60 and R70). -/
def ConfigRegs.pixelInSpace (c : ConfigRegs) (x y : Nat) : Bool :=
  (List.range c.planes).all fun b => c.inBufferSpace (c.wordAddr (c.scanRowOf y) b x)

/-- The buffer write of an in-bounds `SETPX`, into the writable buffer (rules R63 and R143). -/
def State.setPixel (s : State) (x y : BitVec 16) (v : Intensity) : State :=
  s.withBuf s.writable (writePixel s.act x.toNat y.toNat v (s.buf s.writable))

/-- `SETPX`'s own rule (rule R141). -/
def setpxOwn (x y : BitVec 16) (red green blue : BitVec 8) (s : State) : Host.Outcome State Fault Refusal :=
  if s.act.inBounds x y then
    if s.act.pixelInSpace x.toNat y.toNat then
      .next ((s.setPixel x y (s.lut.convert red green blue)).respond 0)
    else .fault .noSuchBufferWord
  else .next s.outOfBounds

/-- `SETPX x, y, red, green, blue` (rule R141). -/
def execSetpx (x y : BitVec 16) (red green blue : BitVec 8) (s : State) : Host.Outcome State Fault Refusal :=
  s.command (.setpx x y red green blue) (setpxOwn x y red green blue s)

/-- `CLEAR`'s own rule: zero the `BUF_WORDS` words of the writable buffer (rule R145). -/
def State.clearWritable (s : State) : State :=
  s.withBuf s.writable ((s.buf s.writable).zeroBelow s.act.bufWords)

/-- `CLEAR` (rule R145). -/
def execClear (s : State) : Host.Outcome State Fault Refusal :=
  s.command .clear (.next (s.clearWritable.respond 0))

end Sys2Proof.Machine
end

