-- ==== Sys2Proof/Machine/FrameBufferArbiter.lean ====
section
/-! DEFINITION. Sub-block 3, the frame-buffer arbiter (spec/42_frame_buffer_arbiter.md): the command `COMMIT` and the
adoption of a pending swap. -/

namespace Sys2Proof.Machine

/-- `COMMIT` (rule R164): set `PENDING`; nothing waits. -/
def execCommit (s : State) : Host.Outcome State Fault Refusal :=
  s.command .commit (.next ({ s with pending := true }.respond 0))

/-- `for d in 0 .. n: DESC[d].src_buf <- k`, every other field and entry kept (rule R166). -/
def repoint (desc : Vector Descriptor Config.maxDescriptors) (n : Nat) (k : BufId) :
    Vector Descriptor Config.maxDescriptors :=
  desc.mapIdx fun d r => if d < n then { r with srcBuf := k } else r

/-- `ADOPT` (rule R166): flip `ACTIVE`, clear `PENDING`, re-point all D descriptors; no buffer word is touched (rule
R163). -/
def State.adopt (s : State) : State :=
  { s with active := s.active.other, pending := false, desc := repoint s.desc s.act.descriptors s.active.other }

end Sys2Proof.Machine
end

