-- ==== Sys2Proof/Machine/DescriptorChain.lean ====
section
/-! DEFINITION. Sub-block 4, the descriptor ring (spec/43_descriptor_chain.md): its construction, its packed image
(rule R104), and the background steps `BG_FETCH` and `BG_DONE`. -/

namespace Sys2Proof.Machine

/-- The record `INIT` builds for descriptor `d`, reading buffer `k` (rules R38 and R181). -/
def descriptorFor (c : ConfigRegs) (k : BufId) (d : Nat) : Descriptor where
  srcBuf := k
  srcOff := BitVec.ofNat 32 (d * c.columns.toNat)
  len := BitVec.ofNat 16 c.columns.toNat
  dst := 0
  next := BitVec.ofNat 16 ((d + 1) % c.descriptors)
  row := BitVec.ofNat 5 (d / c.planes)
  plane := BitVec.ofNat 4 (d % c.planes)
  hold := BitVec.ofNat 48 (c.holdOf (d % c.planes))

/-- `for d in 0 .. D: DESC[d] <- the record`, the entries past D kept (rule R243 B5). -/
def buildRing (c : ConfigRegs) (old : Vector Descriptor Config.maxDescriptors) :
    Vector Descriptor Config.maxDescriptors :=
  old.mapIdx fun d r => if d < c.descriptors then descriptorFor c .A d else r

/-- The packed 128-bit image of a record (rule R104). -/
def Descriptor.image (d : Descriptor) : BitVec 128 :=
  0#5 ++ d.dst ++ d.srcBuf.code ++ d.plane ++ d.row ++ d.hold ++ d.next ++ d.len ++ d.srcOff

/-- The record a packed image holds (rule R104). -/
def Descriptor.ofImage (v : BitVec 128) : Descriptor where
  srcOff := slice v 0 32
  len := slice v 32 16
  next := slice v 48 16
  hold := slice v 64 48
  row := slice v 112 5
  plane := slice v 117 4
  srcBuf := if slice v 121 1 = 0 then .A else .B
  dst := slice v 122 1

/-- A packed image as a narrower channel carries it, sixteen bytes, least significant first (rules R65 and R104). -/
def Descriptor.imageBytes (d : Descriptor) : List Byte := littleEndian 16 d.image.toNat

/-- The record that the bytes of a packed image carry (rules R65 and R104). -/
def Descriptor.ofImageBytes (bs : List Byte) : Descriptor := .ofImage (BitVec.ofNat 128 (ofLittleEndian bs))

/-- A stop request honoured by `BG_FETCH`: the chain stops, the waiting `STOP` is answered (rules R187 and R247). -/
def State.honourStop (s : State) : State :=
  { s with stopReq := false, st := .stopped, ph := .off }.respond 0

/-- The cycle-boundary work of `BG_FETCH`: adopt when `CUR = 0` and a commit is pending (rules R166 and R187). -/
def State.boundary (s : State) : State := if s.cur = 0 ∧ s.pending = true then s.adopt else s

/-- `DREG <- DESC[CUR]` and the start of the shift phase (rule R187). -/
def State.loadDescriptor (s : State) : Host.Outcome State Fault Refusal :=
  match s.desc[s.cur.toNat]? with
  | some d => .next { s with dreg := d, shiftK := 0, ph := .shift }
  | none => .fault .noSuchDescriptor

/-- `BG_FETCH` (rule R187): the stop request first, then the swap, then the fetch. -/
def bgFetch (s : State) : Host.Outcome State Fault Refusal :=
  if s.stopReq then .next s.honourStop else s.boundary.loadDescriptor

/-- `BG_DONE` (rule R189): advance the schedule pointer; a completed cycle gives the restart back. -/
def bgDone (s : State) : Host.Outcome State Fault Refusal :=
  .next { s with
    cur := s.dreg.next
    retryUsed := if s.dreg.next = 0 then false else s.retryUsed
    ph := .fetch }

end Sys2Proof.Machine
end

