-- ==== Sys2Proof/Machine/EngineControl.lean ====
section
/-! DEFINITION. Engine control (spec/45_engine_control.md): the commands `WRCFG`, `RDREG`, `INIT`, `START`, `STOP`. -/

namespace Sys2Proof.Machine

/-- `WRCFG`'s own rule: `CFG[idx] <- value`, any value (rule R241). -/
def writeConfig (idx : BitVec 8) (value : Reg32) (s : State) : State :=
  match s.cfg.write idx value with
  | some c => { s with cfg := c }.respond 0
  | none => s.illegal

/-- `WRCFG idx, value` (rule R241). -/
def execWrcfg (idx : BitVec 8) (value : BitVec 32) (s : State) : Host.Outcome State Fault Refusal :=
  s.command (.wrcfg idx value) (.next (writeConfig idx value s))

/-- `RDREG`'s own rule: answer the register, write nothing (rule R242). -/
def answerRegister (idx : BitVec 8) (s : State) : State :=
  match s.readReg idx with
  | some v => s.respond v
  | none => s.illegal

/-- `RDREG idx` (rule R242). -/
def execRdreg (idx : BitVec 8) (s : State) : Host.Outcome State Fault Refusal :=
  s.command (.rdreg idx) (.next (answerRegister idx s))

/-- Check C1: the rows (rule R243). -/
def ConfigRegs.badRows (c : ConfigRegs) : Bool :=
  decide (c.rows.toNat < 2) || decide (Config.maxRows < c.rows.toNat) || decide (c.rows.toNat % 2 = 1)

/-- Check C2: the columns (rule R243). -/
def ConfigRegs.badColumns (c : ConfigRegs) (p : Params) : Bool :=
  decide (c.columns.toNat < 1) || decide (p.maxColumns < c.columns.toNat)

/-- Check C3: the bit depth (rules R127 and R243). -/
def ConfigRegs.badDepth (c : ConfigRegs) : Bool :=
  decide (c.depth.toNat < 1) || decide (Config.maxBitDepth < c.depth.toNat)

/-- Check C4: one gamma exponent (rule R243). -/
def badGamma (g : Reg32) : Bool := decide (g.toNat < 1) || decide (65535 < g.toNat)

/-- Check C6: the cycle time against the budget; equality passes (rules R184 and R243). -/
def ConfigRegs.overBudget (c : ConfigRegs) (p : Params) : Bool := decide (p.flickerBudget < c.cycleTicks)

/-- Checks C1 to C6 in this order: the number of the first that fails (rules R243 and R281). -/
def ConfigRegs.failedCheck (c : ConfigRegs) (p : Params) : Option Nat :=
  if c.badRows then some 1
  else if c.badColumns p then some 2
  else if c.badDepth then some 3
  else if badGamma c.gammaR || badGamma c.gammaG || badGamma c.gammaB then some 4
  else if decide (c.baseTick.toNat < 1) then some 5
  else if c.overBudget p then some 6
  else none

/-- Build steps B1 to B7 (rule R243). -/
def State.build (s : State) : State :=
  { s with
    act := s.cfg
    lut := buildTable s.cfg
    bufA := s.bufA.zeroBelow s.cfg.bufWords
    bufB := s.bufB.zeroBelow s.cfg.bufWords
    active := .A
    pending := false
    desc := buildRing s.cfg s.desc
    cur := 0
    ph := .off
    shiftK := 0
    stopReq := false
    retryUsed := false
    fault := false
    oobCount := 0
    faultCount := 0
    faultInfo := 0
    st := .ready }

/-- `INIT`'s own rule: check everything before anything is written, then build (rule R243). -/
def initialise (s : State) : State :=
  match s.cfg.failedCheck s.params with
  | some n => s.raise .configError (BitVec.ofNat 32 n)
  | none => s.build.respond 0

/-- `INIT` (rule R243). -/
def execInit (s : State) : Host.Outcome State Fault Refusal :=
  s.command .init (.next (initialise s))

/-- `START` (rule R245). -/
def execStart (s : State) : Host.Outcome State Fault Refusal :=
  s.command .start (.next (s.startChain.respond 0))

/-- `STOP`, its request step: no response yet (rule R246). The completion is `State.honourStop` or `State.escalate`. -/
def execStop (s : State) : Host.Outcome State Fault Refusal :=
  s.command .stop (.next { s with stopReq := true })

end Sys2Proof.Machine
end

