-- ==== Sys2Proof/Machine/ScanSequencer.lean ====
section
/-! DEFINITION. Sub-block 5, the scan sequencer (spec/44_scan_sequencer.md): the background steps `BG_SHIFT`, `BG_LATCH` and
`BG_HOLD`, and the background agent's choice of its step (rule R11). -/

namespace Sys2Proof.Machine

/-- The word address the next `BG_SHIFT` reads, `DREG.src_off + SHIFT_K` (rule R214). -/
def State.shiftAddr (s : State) : Nat := s.dreg.srcOff.toNat + s.shiftK.toNat

/-- The word the next `BG_SHIFT` reads, `MemRead(DREG.src_buf, DREG.src_off + SHIFT_K, 1)` (rule R214). -/
def State.shiftWord (s : State) : PixelWord := (s.buf s.dreg.srcBuf).readWord s.shiftAddr

/-- The transfer of one word (rule R214): into `SR`, onto `DATA` with one pulse of `CLK_OUT`; after the last word `DATA`
returns to 0 and the phase moves on. -/
def State.shiftOne (s : State) : State :=
  let w := s.shiftWord
  let last := s.shiftK + 1 = s.dreg.len
  { s with
    sr := s.sr.writeWord s.shiftK.toNat w
    shiftK := s.shiftK + 1
    wave := s.wave ++ [.shiftClock w]
    pins := { s.pins with data := if last then 0 else w, clkOut := false }
    ph := if last then .latch else .shift }

/-- `BG_SHIFT` (rule R214). -/
def bgShift (s : State) : Host.Outcome State Fault Refusal :=
  if s.act.inBufferSpace s.shiftAddr then .next s.shiftOne else .fault .noSuchBufferWord

/-- `SR[0 .. DREG.len)`, the data of the pulse record (rule R215). -/
def State.shifted (s : State) : List PixelWord := (List.range s.dreg.len.toNat).map s.sr.readWord

/-- `BG_LATCH` (rule R215): drive the address, pulse the latch, emit the pulse record. -/
def bgLatch (s : State) : Host.Outcome State Fault Refusal :=
  .next { s with
    pins := { s.pins with addr := s.dreg.row, lat := false }
    wave := s.wave ++ [.latchPulse s.dreg.row]
    observed := s.observed ++ [.pulse s.dreg.row s.dreg.plane s.dreg.srcBuf s.shifted s.dreg.hold]
    ph := .hold }

/-- `BG_HOLD` (rule R216): the enable is asserted for exactly `DREG.hold` periods. -/
def bgHold (s : State) : Host.Outcome State Fault Refusal :=
  .next { s with
    wave := s.wave ++ [.enable s.dreg.hold]
    pins := { s.pins with oeN := true }
    ph := .done }

/-- The step the background agent takes (rule R11); where none is enabled, nothing happens. -/
def background (s : State) : Host.Outcome State Fault Refusal :=
  match s.ph with
  | .off => .next s
  | .fetch => if s.st = .running then bgFetch s else .next s
  | .shift => bgShift s
  | .latch => bgLatch s
  | .hold => bgHold s
  | .done => bgDone s

end Sys2Proof.Machine
end

