-- ==== Sys2Proof/Machine/Dispatch.lean ====
section
/-! DEFINITION. One arm per command: the meaning of each (rule R93). -/

namespace Sys2Proof.Machine

def exec (i : Instr) (s : State) : Host.Outcome State Fault Refusal :=
  match i with
  | .wrcfg idx value => Sys2Proof.Machine.execWrcfg idx value s
  | .rdreg idx => Sys2Proof.Machine.execRdreg idx s
  | .init => Sys2Proof.Machine.execInit s
  | .lookup ch val => Sys2Proof.Machine.execLookup ch val s
  | .setpx x y red green blue => Sys2Proof.Machine.execSetpx x y red green blue s
  | .clear => Sys2Proof.Machine.execClear s
  | .commit => Sys2Proof.Machine.execCommit s
  | .start => Sys2Proof.Machine.execStart s
  | .stop => Sys2Proof.Machine.execStop s

end Sys2Proof.Machine
end

