-- ==== Sys2Proof/Machine/Agents.lean ====
section
/-! DEFINITION. The turns of the three agents (rules R9 to R11): the command port accepting a word (rules R90, R91 and R95),
the background agent, the timeout and the reset (rule R310). -/

namespace Sys2Proof.Machine

/-- What the next turn is, and the state it is taken in: the first prescribed turn, or a free one (rule R10, log entry 1).
`rsp_valid` is high for one period only, so it falls as the turn begins (rule R90). -/
def State.nextTurn (s : State) : Turn × State :=
  match s.turns with
  | t :: rest => (t, { s with turns := rest, rspValid := false })
  | [] => (Config.freeTurn s.freeCount, { s with freeCount := s.freeCount + 1, rspValid := false })

/-- A word at the command latch is decoded and executed; an illegal one is answered so (rules R95 and R96). -/
def executeWord (w : Word64) (s : State) : Host.Outcome State Fault Refusal :=
  match decode w with
  | .ok i => exec i s
  | .error _ => .next s.illegal

/-- The host offers a word: it is accepted when `cmd_ready` is 1, and nothing happens otherwise (rules R90 and R323, U17). -/
def offerCommand (w : Word64) (s : State) : Host.Outcome State Fault Refusal :=
  if s.cmdReady then executeWord w { s with cmd := w } else .next s

/-- `rst` (rule R310): every piece of the block's state takes its value of `State.reset`; the model's own fields, which are
not the block's, stay (log entry 6). The spec does not say for how many periods the enable of a pulse that `rst` cuts in
`PH_HOLD` was asserted: the waveform gets a free part of the hold, as at a `TIMEOUT` (DESIGN CHOICE, log entry 4). -/
def State.applyReset (s : State) : State :=
  let cut := s.abandonPulse
  { State.reset with
    observed := s.observed
    wave := cut.wave
    turns := s.turns
    freeCount := cut.freeCount
    params := s.params }

/-- One turn is one atomic transition (rule R10). -/
def takeTurn (t : Turn) (s : State) : Host.Outcome State Fault Refusal :=
  match t with
  | .command w => offerCommand w s
  | .background => background s
  | .timeout => .next s.timeout
  | .reset => .next s.applyReset

/-- The command word whose low `nbits` bits are `w`, the bits above zero. -/
def tableWord (nbits w : Nat) : Word64 := BitVec.ofNat 64 (w % 2 ^ nbits)

/-- Prescribe the turns the agents take next, in order. -/
def State.prescribe (s : State) (ts : List Turn) : State := { s with turns := ts ++ s.turns }

/-- The host offers `w` at the very next turn, and no `STOP` is waiting, so that the port takes it (rule R90). -/
def State.offerNext (s : State) (w : Word64) : State := { s.prescribe [.command w] with stopReq := false }

end Sys2Proof.Machine
end

