-- ==== Sys2Proof/Machine/Step.lean ====
section
/-! DEFINITION. One step of the machine: one turn of one agent (rule R10). -/

namespace Sys2Proof.Machine

/-- One step: the next turn is taken (rules R9 to R11). -/
def step (s : State) : Host.Outcome State Fault Refusal := takeTurn s.nextTurn.1 s.nextTurn.2

/-- `s` with the instruction of `nbits` bits `w` where the next step takes it: the host offers it at the command port. -/
def State.withFetchWord (s : State) (nbits w : Nat) : State := s.offerNext (tableWord nbits w)

end Sys2Proof.Machine
end

