-- ==== Sys2Proof/Machine/Assembler.lean ====
section
/-! DEFINITION. The textual form of the commands (rule R99) and the pseudo-instruction `NEW` (rule R100). The block itself
never sees text; this is the notation in which a host's program is written down. -/

namespace Sys2Proof.Assembler

/-- The digits of rule R99 in the order of their values: the first ten serve a decimal number, all sixteen one after `0x`. -/
def digitChars : List Char := "0123456789ABCDEF".toList

/-- The number some digits of a base write, most significant first: a digit's value is its place among the digits of the
base, and a letter may be of either case (log entry 15). No digit at all writes no number. -/
def numeral (base : Nat) (cs : List Char) : Option Nat :=
  match cs.mapM fun c => (digitChars.take base).idxOf? c.toUpper with
  | none => none
  | some [] => none
  | some ds => some (ds.foldl (fun high d => base * high + d) 0)

/-- A number: decimal, or hexadecimal with `0x` (rule R99). -/
def number (cs : List Char) : Option Nat :=
  if ['0', 'x'].isPrefixOf cs then numeral 16 (cs.drop 2) else numeral 10 cs

/-- A number that fits a field of `w` bits. -/
def field (w : Nat) (cs : List Char) : Option (BitVec w) :=
  match number cs with
  | some n => if n < 2 ^ w then some (BitVec.ofNat w n) else none
  | none => none

/-- The register names of rules R30 to R36 with their indices. -/
def registerNames : List (String × BitVec 8) :=
  [ ("CFG_ROWS", 0x00), ("CFG_COLUMNS", 0x01), ("CFG_DEPTH", 0x02), ("CFG_GAMMA_R", 0x03), ("CFG_GAMMA_G", 0x04),
    ("CFG_GAMMA_B", 0x05), ("CFG_BASE_TICK", 0x06), ("STATUS", 0x10), ("OOB_COUNT", 0x11), ("FAULT_COUNT", 0x12),
    ("FAULT_INFO", 0x13), ("CUR_IDX", 0x14), ("ACT_ROWS", 0x18), ("ACT_COLUMNS", 0x19), ("ACT_DEPTH", 0x1A),
    ("ACT_GAMMA_R", 0x1B), ("ACT_GAMMA_G", 0x1C), ("ACT_GAMMA_B", 0x1D), ("ACT_BASE_TICK", 0x1E) ]

/-- A register operand: a name or a number (rule R99). -/
def register (cs : List Char) : Option (BitVec 8) :=
  match registerNames.find? (fun r => r.1.toList == cs) with
  | some r => some r.2
  | none => field 8 cs

/-- A channel operand: `R`, `G`, `B` or a number (rule R99). -/
def channel : List Char → Option (BitVec 2)
  | ['R'] => some 0
  | ['G'] => some 1
  | ['B'] => some 2
  | cs => field 2 cs

/-- A colour written as one operand: `#RRGGBB`, six hexadecimal digits, or one of the two constants (rule R99). -/
def colour (cs : List Char) : Option (BitVec 24) :=
  if cs = "WHITE".toList then some 0xFFFFFF
  else if cs = "BLACK".toList then some 0x000000
  else
    match cs with
    | '#' :: ds =>
      if ds.length = 6 then
        match numeral 16 ds with
        | some n => some (BitVec.ofNat 24 n)
        | none => none
      else none
    | _ => none

/-- `NEW rows, columns, depth, gr, gg, gb, tick`: the eight commands of rule R100, in its order. -/
def expandNew (rows columns depth gr gg gb tick : BitVec 32) : List Instr :=
  [ .wrcfg 0x00 rows, .wrcfg 0x01 columns, .wrcfg 0x02 depth, .wrcfg 0x03 gr, .wrcfg 0x04 gg, .wrcfg 0x05 gb,
    .wrcfg 0x06 tick, .init ]

/-- Read all operands of a list, each by its own reader; the counts must agree. -/
def both {α β : Type} : Option α → Option β → Option (α × β)
  | some a, some b => some (a, b)
  | _, _ => none

/-- `SETPX` with its coordinates read and its colour as three operands or as one (rule R99). -/
def setpx (x y : BitVec 16) : List (List Char) → Option Instr
  | [c] =>
    match colour c with
    | some v => some (.setpx x y (slice v 16 8) (slice v 8 8) (slice v 0 8))
    | none => none
  | [r, g, b] =>
    match both (field 8 r) (both (field 8 g) (field 8 b)) with
    | some (r, g, b) => some (.setpx x y r g b)
    | none => none
  | _ => none

/-- The commands one mnemonic with its operands stands for. -/
def command (m : List Char) (ops : List (List Char)) : Option (List Instr) :=
  if m = "WRCFG".toList then
    match ops with
    | [i, v] => (both (register i) (field 32 v)).map fun p => [.wrcfg p.1 p.2]
    | _ => none
  else if m = "RDREG".toList then
    match ops with
    | [i] => (register i).map fun i => [.rdreg i]
    | _ => none
  else if m = "LOOKUP".toList then
    match ops with
    | [c, v] => (both (channel c) (field 8 v)).map fun p => [.lookup p.1 p.2]
    | _ => none
  else if m = "SETPX".toList then
    match ops with
    | x :: y :: rest =>
      match both (field 16 x) (field 16 y) with
      | some (x, y) => (setpx x y rest).map fun i => [i]
      | none => none
    | _ => none
  else if m = "NEW".toList then
    match ops.map (field 32) with
    | [some r, some c, some d, some gr, some gg, some gb, some t] => some (expandNew r c d gr gg gb t)
    | _ => none
  else if ops ≠ [] then none
  else if m = "INIT".toList then some [.init]
  else if m = "CLEAR".toList then some [.clear]
  else if m = "COMMIT".toList then some [.commit]
  else if m = "START".toList then some [.start]
  else if m = "STOP".toList then some [.stop]
  else none

/-- Take the blanks off both ends. -/
def trim (cs : List Char) : List Char := ((cs.dropWhile (· == ' ')).reverse.dropWhile (· == ' ')).reverse

/-- Cut at every `sep`; the pieces keep their order and there is always at least one. -/
def splitAt (sep : Char) : List Char → List (List Char)
  | [] => [[]]
  | c :: cs =>
    match splitAt sep cs with
    | [] => [[c]]
    | piece :: rest => if c = sep then [] :: piece :: rest else (c :: piece) :: rest

/-- One line: `;` starts a comment, a blank line is no command, otherwise a mnemonic and its operands separated by commas
(rule R99). `none` where the line is no command. -/
def assembleLine (line : List Char) : Option (List Instr) :=
  let body := trim (line.takeWhile (· != ';'))
  let m := body.takeWhile (· != ' ')
  let rest := trim (body.dropWhile (· != ' '))
  if body = [] then some []
  else command m (if rest = [] then [] else (splitAt ',' rest).map trim)

/-- The commands of some lines, in order; `none` where a line is no command. -/
def assembleLines : List (List Char) → Option (List Instr)
  | [] => some []
  | l :: ls =>
    match assembleLine l, assembleLines ls with
    | some a, some b => some (a ++ b)
    | _, _ => none

/-- The commands of a text, one command per line (rule R99). -/
def assemble (text : String) : Option (List Instr) := assembleLines (splitAt '\n' text.toList)

end Sys2Proof.Assembler
end

