-- ==== Sys2Proof/Machine/Frame.lean ====
section
/-! DEFINITION. What the buffer words and the pulse records mean as a picture: the lanes of a word (rules R62 and R219), the
intensity of a pixel reassembled from its planes (rule R144), the record of a descriptor's pulse (rules R188 and R215), and
the time a pixel is lit (rule R185). No step reads these; claims about what the panel shows are stated with them. -/

namespace Sys2Proof

/-- The number of a channel (rule R16). -/
def Channel.number : Channel → Nat
  | .red => 0
  | .green => 1
  | .blue => 2

end Sys2Proof

namespace Sys2Proof.Machine

/-- `top[x] = data[x][2:0]`, {blue, green, red} of pixel (x, row) (rule R219). -/
def topLane (w : PixelWord) : BitVec 3 := slice w 0 3

/-- `bottom[x] = data[x][5:3]`, {blue, green, red} of pixel (x, row + H) (rule R219). -/
def bottomLane (w : PixelWord) : BitVec 3 := slice w 3 3

/-- The bit of a word that belongs to channel `ch` of panel row `y`: bit `s + c` (rule R62). -/
def ConfigRegs.pixelBit (c : ConfigRegs) (y : Nat) (ch : Channel) (w : PixelWord) : Bool :=
  w.getLsbD (c.laneShift y + ch.number)

/-- The intensity of channel `ch` of pixel (x, y) reassembled from the planes of a buffer (rule R144 (a)). -/
def ConfigRegs.pixelIntensity (c : ConfigRegs) (m : Memory) (x y : Nat) (ch : Channel) : Nat :=
  ((List.range c.planes).map fun b =>
    (c.pixelBit y ch (m.readWord (c.wordAddr (c.scanRowOf y) b x))).toNat * 2 ^ b).sum

/-- The record the pulse of descriptor `d` emits when the words of buffer `k` are `m` (rules R38, R61, R188 and R215). -/
def pulseFor (c : ConfigRegs) (k : BufId) (m : Memory) (d : Nat) : Record :=
  .pulse (BitVec.ofNat 5 (d / c.planes)) (BitVec.ofNat 4 (d % c.planes)) k
    ((List.range c.columns.toNat).map fun x => m.readWord (d * c.columns.toNat + x))
    (BitVec.ofNat 48 (c.holdOf (d % c.planes)))

/-- The records of one complete cycle read from buffer `k`, in ring order (rules R12 and R191). -/
def cycleRecords (c : ConfigRegs) (k : BufId) (m : Memory) : List Record :=
  (List.range c.descriptors).map (pulseFor c k m)

/-- For how many periods a record lights channel `ch` of pixel (x, y): its hold, if it is a pulse of that pixel's scan row
whose word of column `x` has the pixel's bit set (rules R185 and R219). -/
def ConfigRegs.litBy (c : ConfigRegs) (x y : Nat) (ch : Channel) : Record → Nat
  | .pulse row _ _ data hold =>
    if row.toNat = c.scanRowOf y ∧ c.pixelBit y ch (data.getD x 0) = true then hold.toNat else 0
  | .rsp _ _ => 0
  | .abort _ => 0

/-- The sum of `hold` over the records that light channel `ch` of pixel (x, y) (rule R185). -/
def ConfigRegs.litTicks (c : ConfigRegs) (x y : Nat) (ch : Channel) (rs : List Record) : Nat :=
  (rs.map (c.litBy x y ch)).sum

end Sys2Proof.Machine
end

