-- ==== Sys2Proof/Safety.lean ====
section
/-! DEFINITION. What a safe run is: the invariants of rule R43 and those the other rules imply, the canonical form of the
memories, and the observation that shows no torn cycle (rule R74). -/

namespace Sys2Proof.Machine

/-- The open parameters lie in the ranges of rule R7. -/
abbrev Params.Legal (p : Params) : Prop := 1 ≤ p.maxColumns ∧ p.maxColumns ≤ 65535 ∧ 1 ≤ p.flickerBudget

/-- A legal configuration: the ranges of rules R6 and R30 and the budget of rule R184. -/
abbrev ConfigRegs.Legal (p : Params) (c : ConfigRegs) : Prop :=
  (2 ≤ c.rows.toNat ∧ c.rows.toNat ≤ 64 ∧ c.rows.toNat % 2 = 0) ∧
  (1 ≤ c.columns.toNat ∧ c.columns.toNat ≤ p.maxColumns) ∧
  (1 ≤ c.depth.toNat ∧ c.depth.toNat ≤ 16) ∧
  (1 ≤ c.gammaR.toNat ∧ c.gammaR.toNat ≤ 65535) ∧
  (1 ≤ c.gammaG.toNat ∧ c.gammaG.toNat ≤ 65535) ∧
  (1 ≤ c.gammaB.toNat ∧ c.gammaB.toNat ≤ 65535) ∧
  1 ≤ c.baseTick.toNat ∧
  c.cycleTicks ≤ p.flickerBudget

/-- The arrays of words are canonical, and every byte stored has bits 7:6 zero (rule R43 (d)). -/
abbrev State.MemoryInv (s : State) : Prop :=
  (s.bufA.wf = true ∧ s.bufB.wf = true ∧ s.sr.wf = true) ∧
  (s.bufA.sixBit = true ∧ s.bufB.sixBit = true ∧ s.sr.sixBit = true)

/-- What holds once an engine is built (rules R24, R37, R43 (b), (c) and (f)). -/
structure State.BuiltInv (s : State) : Prop where
  /-- `ACT` passed the checks of `INIT`. -/
  legal : s.act.Legal s.params
  /-- The table is the one of the active configuration. -/
  table : s.lut = buildTable s.act
  /-- Every descriptor is the one `INIT` built, with `src_buf = ACTIVE`. -/
  ring : ∀ d, d < s.act.descriptors → s.desc[d]? = some (descriptorFor s.act s.active d)
  /-- `CUR < D`. -/
  cur : s.cur.toNat < s.act.descriptors

/-- What `Uninitialized` still shows: the reset values a host can read, but for `CFG` (rules R44 and R242). -/
structure State.UnbuiltInv (s : State) : Prop where
  act : s.act = ConfigRegs.zero
  active : s.active = .A
  pending : s.pending = false
  retryUsed : s.retryUsed = false
  cur : s.cur = 0
  counters : s.oobCount = 0 ∧ s.faultCount = 0 ∧ s.faultInfo = 0

/-- What holds of a pulse in flight (rules R25, R26, R42 and R43 (b)). -/
structure State.PulseInv (s : State) : Prop where
  /-- `DREG` is the descriptor `CUR` names, reading the active buffer. -/
  dreg : s.ph.inFlight = true → s.dreg = descriptorFor s.act s.active s.cur.toNat
  /-- Words remain to be shifted in `PH_SHIFT`. -/
  room : s.ph = .shift → s.shiftK.toNat < s.act.columns.toNat
  /-- `SR` mirrors what has been shifted out so far. -/
  mirror : s.ph = .shift → ∀ x, x < s.shiftK.toNat →
    s.sr.readWord x = (s.buf s.active).readWord (s.cur.toNat * s.act.columns.toNat + x)
  /-- When the latch is next, `SR` mirrors the whole region. -/
  mirrored : s.ph = .latch → ∀ x, x < s.act.columns.toNat →
    s.sr.readWord x = (s.buf s.active).readWord (s.cur.toNat * s.act.columns.toNat + x)

/-- The pins between two steps: the idle levels of rule R212, but for `DATA`, which holds the last word while shifting. -/
structure State.PinInv (s : State) : Prop where
  clkOut : s.pins.clkOut = false
  lat : s.pins.lat = false
  oeN : s.pins.oeN = true
  data : s.ph ≠ .shift → s.pins.data = 0

/-- The invariant of the machine (rule R43). -/
structure State.Inv (s : State) : Prop where
  params : s.params.Legal
  memory : s.MemoryInv
  built : s.st ≠ .uninitialized → s.BuiltInv
  unbuilt : s.st = .uninitialized → s.UnbuiltInv
  /-- `ST = Running` if and only if `PH != PH_OFF` (rule R43 (e)). -/
  running : s.st = .running ↔ s.ph ≠ .off
  /-- `FAULT = 1` implies `ST = Stopped` (rule R43 (g)). -/
  faultStops : s.fault = true → s.st = .stopped
  /-- `STOP_REQ = 1` implies `ST = Running` (rule R43 (g)). -/
  stopRuns : s.stopReq = true → s.st = .running
  pulse : s.PulseInv
  pins : s.PinInv
  /-- The bits of `FAULT_INFO` above 18 are zero (rule R35). -/
  faultInfo : s.faultInfo.toNat < 2 ^ 19

/-- No cycle of an observation is torn (rule R74): a pulse record that is not of descriptor 0 (row 0, plane 0) carries the
`buf` of the pulse record before it, with no `ABORT` between them. The first argument is the `buf` of the cycle in progress. -/
def Untorn : Option BufId → List Record → Prop
  | _, [] => True
  | k, .rsp _ _ :: rs => Untorn k rs
  | _, .abort _ :: rs => Untorn none rs
  | k, .pulse row plane buf _ _ :: rs => ((row = 0 ∧ plane = 0) ∨ k = some buf) ∧ Untorn (some buf) rs

/-- The `buf` of the cycle in progress at the end of an observation. -/
def cycleBuf : Option BufId → List Record → Option BufId
  | k, [] => k
  | k, .rsp _ _ :: rs => cycleBuf k rs
  | _, .abort _ :: rs => cycleBuf none rs
  | _, .pulse _ _ buf _ _ :: rs => cycleBuf (some buf) rs

/-- The agent is past the first latch of a cycle: the pulse records of the cycle in progress have begun. -/
def State.midCycle (s : State) : Bool :=
  match s.ph with
  | .off => false
  | .fetch => s.cur != 0
  | .shift => s.cur != 0
  | .latch => s.cur != 0
  | .hold => true
  | .done => true

/-- Swap atomicity as an invariant (rule R74): no cycle observed so far is torn, and the cycle in progress has been read from
the active buffer. -/
structure State.SwapInv (s : State) : Prop where
  inv : s.Inv
  untorn : Untorn none s.observed
  current : s.midCycle = true → cycleBuf none s.observed = some s.active

/-! ### The spec's own lists, as the statements cite them -/

/-- The legal command words: the nine rows of rule R93 with their restrictions on `idx` and `ch`. -/
def LegalWord (w : Word64) : Prop :=
  (w &&& 0xFF00FFFF00000000#64 = 0x0100000000000000#64 ∧ (slice w 48 8).toNat ≤ 0x06) ∨
  (w &&& 0xFF00FFFFFFFFFFFF#64 = 0x0200000000000000#64 ∧
    ((slice w 48 8).toNat ≤ 0x06 ∨ (0x10 ≤ (slice w 48 8).toNat ∧ (slice w 48 8).toNat ≤ 0x14) ∨
      (0x18 ≤ (slice w 48 8).toNat ∧ (slice w 48 8).toNat ≤ 0x1E))) ∨
  w = 0x0300000000000000#64 ∨
  (w &&& 0xFFFFFFFFFFFFFC00#64 = 0x0400000000000000#64 ∧ slice w 8 2 ≠ 3) ∨
  w &&& 0xFF00000000000000#64 = 0x1000000000000000#64 ∨
  w = 0x1100000000000000#64 ∨ w = 0x1200000000000000#64 ∨ w = 0x2000000000000000#64 ∨ w = 0x2100000000000000#64

/-- The columns of the acceptance matrix of rule R240: the engine states that accept a command. -/
def acceptedIn : Instr → List EngineState
  | .wrcfg _ _ => [.uninitialized, .ready, .stopped]
  | .rdreg _ => [.uninitialized, .ready, .running, .stopped]
  | .init => [.uninitialized, .ready, .stopped]
  | .lookup _ _ => [.ready, .running, .stopped]
  | .setpx _ _ _ _ _ => [.ready, .running, .stopped]
  | .clear => [.ready, .running, .stopped]
  | .commit => [.ready, .running, .stopped]
  | .start => [.ready, .stopped]
  | .stop => [.running]

/-- The readable rows of the register index map (rule R36), with the value each returns. -/
def State.registerMap (s : State) : List (BitVec 8 × Reg32) :=
  [ (0x00, s.cfg.rows), (0x01, s.cfg.columns), (0x02, s.cfg.depth), (0x03, s.cfg.gammaR), (0x04, s.cfg.gammaG),
    (0x05, s.cfg.gammaB), (0x06, s.cfg.baseTick), (0x10, s.status), (0x11, s.oobCount), (0x12, s.faultCount),
    (0x13, s.faultInfo), (0x14, s.cur.setWidth 32), (0x18, s.act.rows), (0x19, s.act.columns), (0x1A, s.act.depth),
    (0x1B, s.act.gammaR), (0x1C, s.act.gammaG), (0x1D, s.act.gammaB), (0x1E, s.act.baseTick) ]

/-- `s` with the response `RSP(status, data)` presented and nothing else changed (rules R12 and R97). -/
def State.withAnswer (s : State) (status : BitVec 8) (data : Reg32) : State :=
  { s with
    rspReg := status ++ 0#24 ++ data
    rspValid := true
    observed := s.observed ++ [.rsp status data] }

/-- The state in which a prescribed turn is taken: the turn is off the list, and the response of the step before is no
longer presented (rule R90). -/
def State.inTurn (s : State) (rest : List Turn) : State := { s with turns := rest, rspValid := false }

/-- A step that goes on: neither a fault nor a refusal. -/
def completes (o : Host.Outcome State Fault Refusal) : Bool :=
  match o with
  | .next _ => true
  | .fault _ => false
  | .refused _ => false

end Sys2Proof.Machine
end

