-- ==== Sys2Proof/Certificates/Slice0/Obligations.lean ====
section
/-! DEFINITION. The statements for the provers. Each docstring names the rule of spec/ it formalises; a clause that rests on a
choice of the model names the log entry. The free values are universally quantified through the state (`turns`,
`freeCount`) or opaque (Sys2Proof/Config.lean). -/

open Sys2Proof Sys2Proof.Machine

/-! ### The encoding -/

/-- Decoding the encoding of a well-formed command gives the command back, at every operand value (rules R92 to R95). -/
def Obligations.EncodeThenDecodeReturnsTheCommand : Prop :=
  ∀ i : Instr, i.wellFormed = true → decode (encode i) = .ok i

/-- The decoder accepts exactly the words that select a row of the opcode map and meet its restriction (rule R93). -/
def Obligations.DecoderAcceptsExactlyTheLegalWords : Prop :=
  ∀ w : Word64, (∃ i, decode w = .ok i) ↔ LegalWord w

/-- An accepted word is the encoding of the command it decodes to, which is well formed: no word has two meanings and no
legal word carries a bit the decoder drops (rules R92 and R94). -/
def Obligations.AcceptedWordIsItsCommandsEncoding : Prop :=
  ∀ (w : Word64) (i : Instr), decode w = .ok i → i.wellFormed = true ∧ encode i = w

/-- A word of each format, written out from the spec's encoding (spec/95_test_vectors.md V21, V25, V33, V36, V40
and V37, in the order they stand here). -/
def Obligations.SpecWordsDecodeToTheirCommands : Prop :=
  decode 0x01060000FFFFFFFF = .ok (.wrcfg 6 0xFFFFFFFF) ∧ decode 0x021A000000000000 = .ok (.rdreg 0x1A) ∧
  decode 0x04000000000002FF = .ok (.lookup 2 255) ∧ decode 0x10003F003F123456 = .ok (.setpx 63 63 0x12 0x34 0x56) ∧
  decode 0x1000010003FF8000 = .ok (.setpx 1 3 255 128 0) ∧ decode 0x2100000000000000 = .ok .stop

/-- The packed image of a descriptor record has the fields of rule R104 at their bits, and the record is read back from it. -/
def Obligations.DescriptorImageHasTheStatedLayout : Prop :=
  ∀ d : Descriptor,
    slice d.image 0 32 = d.srcOff ∧ slice d.image 32 16 = d.len ∧ slice d.image 48 16 = d.next ∧
    slice d.image 64 48 = d.hold ∧ slice d.image 112 5 = d.row ∧ slice d.image 117 4 = d.plane ∧
    slice d.image 121 1 = d.srcBuf.code ∧ slice d.image 122 1 = d.dst ∧ slice d.image 123 5 = 0#5 ∧
    Descriptor.ofImage d.image = d

/-- On a narrower channel words come least significant byte first (rule R65): a command word and a response word are eight
bytes and a descriptor image sixteen, and byte `k` of each is bits `8k + 7 : 8k`. The eight bytes of a command give the
command back and leave the bytes after them; those of an image give the record back. -/
def Obligations.CommandBytesCarryTheCommand : Prop :=
  (∀ i : Instr, (encodeBytes i).length = 8 ∧ ∀ k, k < 8 → (encodeBytes i)[k]? = some (slice (encode i) (8 * k) 8)) ∧
  (∀ (i : Instr) (rest : List Byte), i.wellFormed = true → decodeBytes (encodeBytes i ++ rest) = .ok (i, rest)) ∧
  (∀ (status : BitVec 8) (data : Reg32), (responseBytes status data).length = 8 ∧
    ∀ k, k < 8 → (responseBytes status data)[k]? = some (slice (status ++ 0#24 ++ data) (8 * k) 8)) ∧
  (∀ d : Descriptor, d.imageBytes.length = 16 ∧
    (∀ k, k < 16 → d.imageBytes[k]? = some (slice d.image (8 * k) 8)) ∧ Descriptor.ofImageBytes d.imageBytes = d)

/-! ### The command port -/

/-- A step whose turn is a legal command word at a ready port is `exec` of the decoded command, on the state with the turn
taken and the word latched (rules R90 and R95; the list of turns is the model's, log entry 1). -/
def Obligations.StepExecutesTheDecodedCommand : Prop :=
  ∀ (s : State) (w : Word64) (rest : List Turn) (i : Instr),
    s.turns = .command w :: rest → s.stopReq = false → decode w = .ok i →
    step s = exec i { s.inTurn rest with cmd := w }

/-- Every other word is answered `RSP(IllegalCommand, 0)` and changes no state of rule R20 (rule R96). That the word is
nevertheless latched in `CMD`, which is outside that state, is the model's, log entry 17; the list of turns is log entry 1. -/
def Obligations.IllegalWordChangesNothing : Prop :=
  ∀ (s : State) (w : Word64) (rest : List Turn),
    s.turns = .command w :: rest → s.stopReq = false → ¬ LegalWord w →
    step s = .next (({ s.inTurn rest with cmd := w }).withAnswer 0x05 0)

/-- While a `STOP` waits the port accepts nothing: a word offered then is not latched and has no effect (rules R27, R90
and R323; that an offer is spent when it is not accepted is the model's, log entry 5). -/
def Obligations.PortTakesNothingWhileStopWaits : Prop :=
  ∀ (s : State) (w : Word64) (rest : List Turn),
    s.turns = .command w :: rest → s.stopReq = true → step s = .next (s.inTurn rest)

/-- The acceptance matrix of rule R240: a command the engine state refuses answers `RSP(StateError, ST)` and changes nothing;
one it accepts is never answered so. -/
def Obligations.AcceptanceMatrixDecidesStateErrors : Prop :=
  ∀ (i : Instr) (s : State), i.wellFormed = true →
    (s.st ∉ acceptedIn i →
      exec i s = .next (s.withAnswer 0x04
        (match s.st with | .uninitialized => 0 | .ready => 1 | .running => 2 | .stopped => 3))) ∧
    (s.st ∈ acceptedIn i → ∀ (t : State) (d : Reg32), exec i s = .next t → t.observed ≠ s.observed ++ [.rsp 0x04 d])

/-- A command value whose `idx` or `ch` is reserved is answered `IllegalCommand` whatever the engine state. No word decodes to
such a value, and what `exec` answers to it is the model's, log entry 16: the answer that rules R95, R96 and R281 give the
word itself, whose encoding is tested before the state. -/
def Obligations.IllegalOperandsOutrankTheEngineState : Prop :=
  ∀ (i : Instr) (s : State), i.wellFormed = false → exec i s = .next (s.withAnswer 0x05 0)

/-- Each command produces exactly one response, with one of the six status codes, presented at once; `STOP` alone, accepted in
`Running`, leaves its response to a later step (rules R91, R97 and R98). -/
def Obligations.CommandAnswersExactlyOnce : Prop :=
  ∀ (i : Instr) (s t : State), exec i s = .next t →
    (∃ (status : BitVec 8) (data : Reg32), t.observed = s.observed ++ [.rsp status data] ∧
      t.rspReg = status ++ 0#24 ++ data ∧ t.rspValid = true ∧ status.toNat ≤ 5) ∨
    (i = .stop ∧ s.st = .running ∧ t = { s with stopReq := true })

/-! ### Registers and reset -/

/-- The fields of `STATUS` (rule R32), with the encodings of `ST` (rule R21) and `PH` (rule R25), and that a `RDREG` of index
0x10 returns it as it stands at the command's step. -/
def Obligations.StatusRegisterLayout : Prop :=
  ∀ s : State,
    slice s.status 0 2 = (match s.st with | .uninitialized => 0 | .ready => 1 | .running => 2 | .stopped => 3) ∧
    slice s.status 2 1 = BitVec.ofBool s.pending ∧
    slice s.status 3 1 = (match s.active with | .A => 0 | .B => 1) ∧
    slice s.status 4 1 = BitVec.ofBool s.retryUsed ∧ slice s.status 5 1 = BitVec.ofBool s.fault ∧
    slice s.status 6 2 = 0#2 ∧
    slice s.status 8 3 =
      (match s.ph with | .off => 0 | .fetch => 1 | .shift => 2 | .latch => 3 | .hold => 4 | .done => 5) ∧
    slice s.status 11 21 = 0#21 ∧
    exec (.rdreg 0x10) s = .next (s.withAnswer 0x00 s.status)

/-- The reset values rule R44 states. (The items it leaves unspecified are zero in the model by choice, log entry 3, and are
not part of this statement.) -/
def Obligations.ResetLeavesTheStatedValues : Prop :=
  State.reset.st = .uninitialized ∧ State.reset.active = .A ∧ State.reset.pending = false ∧
  State.reset.stopReq = false ∧ State.reset.retryUsed = false ∧ State.reset.fault = false ∧ State.reset.cur = 0 ∧
  State.reset.ph = .off ∧ State.reset.shiftK = 0 ∧ (∀ e ∈ State.reset.registerMap, e.2 = 0) ∧
  State.reset.pins = { data := 0, clkOut := false, lat := false, oeN := true, addr := 0 } ∧
  State.reset.irqFault = false ∧ State.reset.cmdReady = true ∧ State.reset.rspValid = false

/-- `rst` takes every piece of the block's state to its value of `State.reset` in one turn; a command in progress and a waiting
`STOP` get no response (rule R310). The model's choices in it: the zeros of `DREG`, `SR`, `LUT`, `DESC`, the buffers, `CMD`
and `RSP_REG`, which the spec leaves unspecified (log entry 3); that the observation, the waveform, the parameters and the
turns to come are kept (log entry 6); and that a pulse cut in its hold was enabled for a free part of it (log entry 4). -/
def Obligations.ResetTurnResetsTheBlock : Prop :=
  ∀ (s : State) (rest : List Turn), s.turns = .reset :: rest →
    ∃ (wave : List PinEvent) (n : Nat),
      step s = .next { State.reset with
        observed := s.observed, wave := wave, turns := rest, freeCount := n, params := s.params } ∧
      (s.ph ≠ .hold → wave = s.wave) ∧
      (s.ph = .hold → ∃ p : BitVec 48, wave = s.wave ++ [.enable p] ∧ p.toNat ≤ s.dreg.hold.toNat)

/-! ### The commands -/

/-- `WRCFG` with a legal index, outside `Running`: the named staged register takes the value, whatever it is, and nothing
else changes (rule R241). -/
def Obligations.WrcfgWritesOneStagedRegister : Prop :=
  ∀ (s : State) (idx : BitVec 8) (value : Reg32), idx.toNat ≤ 6 → s.st ≠ .running →
    ∃ c : ConfigRegs, exec (.wrcfg idx value) s = .next ({ s with cfg := c }.withAnswer 0x00 0) ∧
      ∀ n, n ≤ 6 → c.read n = if n = idx.toNat then some value else s.cfg.read n

/-- The register index map (rule R36). `RDREG` answers the value of a readable row in every engine state and changes nothing;
any other index is illegal. `WRCFG`, outside `Running`, writes the staged registers 0x00 to 0x06; any other index is
illegal in every state. A command value with an illegal index is one that no word decodes to, and what `exec` answers to it
is the model's, log entry 16. -/
def Obligations.RdregAnswersTheRegisterMap : Prop :=
  ∀ (s : State) (idx : BitVec 8),
    (∀ v, (idx, v) ∈ s.registerMap → exec (.rdreg idx) s = .next (s.withAnswer 0x00 v)) ∧
    ((∀ v, (idx, v) ∉ s.registerMap) → exec (.rdreg idx) s = .next (s.withAnswer 0x05 0)) ∧
    (idx.toNat ≤ 0x06 → s.st ≠ .running → ∀ v : Reg32, ∃ c : ConfigRegs,
      exec (.wrcfg idx v) s = .next ({ s with cfg := c }.withAnswer 0x00 0) ∧ c.read idx.toNat = some v) ∧
    (0x06 < idx.toNat → ∀ v : Reg32, exec (.wrcfg idx v) s = .next (s.withAnswer 0x05 0))

/-- `INIT` of a legal staged configuration, outside `Running`: the build steps B1 to B7 of rule R243, the table by rule R122,
the ring by rule R38, and nothing else changes. That words from `BUF_WORDS` on and entries from D on, which the spec leaves
unspecified, are kept is the model's, log entry 11. -/
def Obligations.InitBuildsALegalConfiguration : Prop :=
  ∀ s : State, s.st ≠ .running → s.params.Legal → s.cfg.Legal s.params →
    ∃ (lut : GammaTable) (a b : Memory) (desc : Vector Descriptor Config.maxDescriptors),
      exec .init s = .next ({ s with
        act := s.cfg, lut := lut, bufA := a, bufB := b, active := .A, pending := false, desc := desc, cur := 0,
        ph := .off, shiftK := 0, stopReq := false, retryUsed := false, fault := false, oobCount := 0, faultCount := 0,
        faultInfo := 0, st := .ready }.withAnswer 0x00 0) ∧
      (∀ (c : Channel) (i : BitVec 8),
        (lut.lookup c i).toNat = gammaEntry (s.cfg.gammaRaw c) s.cfg.depth.toNat i.toNat) ∧
      (∀ x, a.read x = if x < s.cfg.bufWords then 0 else s.bufA.read x) ∧
      (∀ x, b.read x = if x < s.cfg.bufWords then 0 else s.bufB.read x) ∧
      (∀ d, d < s.cfg.descriptors → ∃ r : Descriptor, desc[d]? = some r ∧ r.srcBuf = .A ∧
        r.srcOff.toNat = d * s.cfg.columns.toNat ∧ r.len.toNat = s.cfg.columns.toNat ∧ r.dst = 0 ∧
        r.next.toNat = (d + 1) % s.cfg.descriptors ∧ r.row.toNat = d / s.cfg.depth.toNat ∧
        r.plane.toNat = d % s.cfg.depth.toNat ∧
        r.hold.toNat = s.cfg.baseTick.toNat * 2 ^ (d % s.cfg.depth.toNat)) ∧
      (∀ d, s.cfg.descriptors ≤ d → desc[d]? = s.desc[d]?)

/-- `INIT` of a configuration that fails a check, outside `Running`: `ConfigError` with the number of the first failing check
of C1 to C6, and nothing is written (rules R243, R272 and R281). -/
def Obligations.InitReportsTheFirstFailingCheck : Prop :=
  ∀ (s : State) (n : Nat), s.st ≠ .running → n ≠ 0 →
    n = (if s.cfg.rows.toNat < 2 ∨ 64 < s.cfg.rows.toNat ∨ s.cfg.rows.toNat % 2 = 1 then 1
      else if s.cfg.columns.toNat < 1 ∨ s.params.maxColumns < s.cfg.columns.toNat then 2
      else if s.cfg.depth.toNat < 1 ∨ 16 < s.cfg.depth.toNat then 3
      else if s.cfg.gammaR.toNat < 1 ∨ 65535 < s.cfg.gammaR.toNat ∨ s.cfg.gammaG.toNat < 1 ∨
        65535 < s.cfg.gammaG.toNat ∨ s.cfg.gammaB.toNat < 1 ∨ 65535 < s.cfg.gammaB.toNat then 4
      else if s.cfg.baseTick.toNat < 1 then 5
      else if s.params.flickerBudget <
        s.cfg.rows.toNat / 2 * (2 ^ s.cfg.depth.toNat - 1) * s.cfg.baseTick.toNat then 6
      else 0) →
    exec .init s = .next (s.withAnswer 0x01 (BitVec.ofNat 32 n))

/-- `LOOKUP` of channel 0, 1 or 2 once an engine is built answers the table entry, zero-extended, and changes nothing (rule
R126). -/
def Obligations.LookupAnswersTheTableEntry : Prop :=
  ∀ (s : State) (val : BitVec 8), s.st ≠ .uninitialized →
    exec (.lookup 0 val) s = .next (s.withAnswer 0x00 ((s.lut.red[val.toNat]'val.isLt).setWidth 32)) ∧
    exec (.lookup 1 val) s = .next (s.withAnswer 0x00 ((s.lut.green[val.toNat]'val.isLt).setWidth 32)) ∧
    exec (.lookup 2 val) s = .next (s.withAnswer 0x00 ((s.lut.blue[val.toNat]'val.isLt).setWidth 32))

/-- `SETPX` in bounds: in each plane's word of the pixel, at `addr(y mod H, b, x)` of the writable buffer, the three bits of the
pixel's lane become the bits of the three table entries and the other bits stay; every other byte of the buffer and all
other state stay (rule R143). The rows are even, as `INIT` checks. -/
def Obligations.SetpxWritesOnlyItsPixel : Prop :=
  ∀ (s : State) (x y : BitVec 16) (red green blue : BitVec 8),
    s.st ≠ .uninitialized → x.toNat < s.act.columns.toNat → y.toNat < s.act.rows.toNat →
    s.act.rows.toNat % 2 = 0 → (s.buf s.active.other).wf = true →
    ∃ m : Memory,
      exec (.setpx x y red green blue) s =
        .next ((match s.active with | .A => { s with bufB := m } | .B => { s with bufA := m }).withAnswer 0x00 0) ∧
      (∀ b, b < s.act.planes →
        let a := s.act.wordAddr (s.act.scanRowOf y.toNat) b x.toNat
        m.read a = (m.readWord a).setWidth 8 ∧
        ∀ j, j < 6 → (m.readWord a).getLsbD j =
          if j = s.act.laneShift y.toNat then (s.lut.lookup .red red).getLsbD b
          else if j = s.act.laneShift y.toNat + 1 then (s.lut.lookup .green green).getLsbD b
          else if j = s.act.laneShift y.toNat + 2 then (s.lut.lookup .blue blue).getLsbD b
          else ((s.buf s.active.other).readWord a).getLsbD j) ∧
      (∀ a, (∀ b, b < s.act.planes → a ≠ s.act.wordAddr (s.act.scanRowOf y.toNat) b x.toNat) →
        m.read a = (s.buf s.active.other).read a)

/-- `SETPX` out of bounds, in either coordinate: no buffer word is written, `OOB_COUNT` counts with saturation, the answer is
`OutOfBounds` (rule R142). -/
def Obligations.SetpxOutOfBoundsOnlyCounts : Prop :=
  ∀ (s : State) (x y : BitVec 16) (red green blue : BitVec 8),
    s.st ≠ .uninitialized → (s.act.columns.toNat ≤ x.toNat ∨ s.act.rows.toNat ≤ y.toNat) →
    exec (.setpx x y red green blue) s =
      .next ({ s with oobCount := BitVec.ofNat 32 (min (s.oobCount.toNat + 1) (2 ^ 32 - 1)) }.withAnswer 0x02 0)

/-- After an in-bounds `SETPX` the pixel's planes reassemble to the table entries of its levels, and every other pixel of the
writable buffer keeps its intensities (rule R144 (a) and (b)). -/
def Obligations.SetpxReadsBackAndKeepsOtherPixels : Prop :=
  ∀ (s t : State) (x y : BitVec 16) (red green blue : BitVec 8),
    s.Inv → s.st ≠ .uninitialized → x.toNat < s.act.columns.toNat → y.toNat < s.act.rows.toNat →
    exec (.setpx x y red green blue) s = .next t →
    s.act.pixelIntensity (t.buf s.active.other) x.toNat y.toNat .red = (s.lut.lookup .red red).toNat ∧
    s.act.pixelIntensity (t.buf s.active.other) x.toNat y.toNat .green = (s.lut.lookup .green green).toNat ∧
    s.act.pixelIntensity (t.buf s.active.other) x.toNat y.toNat .blue = (s.lut.lookup .blue blue).toNat ∧
    ∀ (x' y' : Nat) (c : Channel), x' < s.act.columns.toNat → y' < s.act.rows.toNat →
      (x' ≠ x.toNat ∨ y' ≠ y.toNat) →
      s.act.pixelIntensity (t.buf s.active.other) x' y' c = s.act.pixelIntensity (s.buf s.active.other) x' y' c

/-- A second `SETPX` to the same pixel replaces the first completely: the buffers are as if only the second had been made (rule
R144 (c)). -/
def Obligations.SecondSetpxReplacesTheFirst : Prop :=
  ∀ (s t u v : State) (x y : BitVec 16) (r1 g1 b1 r2 g2 b2 : BitVec 8),
    s.Inv → s.st ≠ .uninitialized → x.toNat < s.act.columns.toNat → y.toNat < s.act.rows.toNat →
    exec (.setpx x y r1 g1 b1) s = .next t → exec (.setpx x y r2 g2 b2) t = .next u →
    exec (.setpx x y r2 g2 b2) s = .next v → u.bufA = v.bufA ∧ u.bufB = v.bufB

/-- `CLEAR` once an engine is built zeroes the `BUF_WORDS` words of the writable buffer; all other state stays; a second `CLEAR`
leaves the buffer as the first did (rules R145 and R146 (b)). That words from `BUF_WORDS` on, which the spec leaves
unspecified, are kept is the model's, log entry 11. -/
def Obligations.ClearZeroesTheWritableBuffer : Prop :=
  ∀ s : State, s.st ≠ .uninitialized →
    ∃ m : Memory,
      exec .clear s =
        .next ((match s.active with | .A => { s with bufB := m } | .B => { s with bufA := m }).withAnswer 0x00 0) ∧
      (∀ a, m.read a = if a < s.act.bufWords then 0 else (s.buf s.active.other).read a) ∧
      ∀ t u : State, exec .clear s = .next t → exec .clear t = .next u → u.bufA = t.bufA ∧ u.bufB = t.bufB

/-- `COMMIT` once an engine is built sets `PENDING`, answers at once and changes nothing else (rule R164). -/
def Obligations.CommitSetsPendingAndNothingElse : Prop :=
  ∀ s : State, s.st ≠ .uninitialized → exec .commit s = .next ({ s with pending := true }.withAnswer 0x00 0)

/-- `START` in `Ready` or `Stopped` clears `FAULT` and `RETRY_USED` and begins the ring at descriptor 0 with a fetch; the return
from an escalated fault is this command (rules R245 and R284). -/
def Obligations.StartBeginsAtDescriptorZero : Prop :=
  ∀ s : State, s.st = .ready ∨ s.st = .stopped →
    exec .start s = .next ({ s with
      fault := false, retryUsed := false, cur := 0, shiftK := 0, st := .running, ph := .fetch }.withAnswer 0x00 0)

/-- `STOP` in `Running` sets `STOP_REQ` and nothing else: no response yet (rule R246). -/
def Obligations.StopRequestsAndWaits : Prop :=
  ∀ s : State, s.st = .running → exec .stop s = .next { s with stopReq := true }

/-- An index outside its space stops the machine by name (rule R60 gives no such word and no such descriptor): a `SETPX` or a
`BG_SHIFT` whose word address is not below `BUF_WORDS`, and a `BG_FETCH` whose `CUR` names no entry of `DESC`. The stop is the
model's, log entry 7; no run from reset reaches it (`StepCompletesUnderTheInvariant`). -/
def Obligations.AddressesOutsideTheirSpaceFault : Prop :=
  (∀ (s : State) (x y : BitVec 16) (red green blue : BitVec 8) (b : Nat),
    s.st ≠ .uninitialized → x.toNat < s.act.columns.toNat → y.toNat < s.act.rows.toNat → b < s.act.planes →
    s.act.bufWords ≤ s.act.wordAddr (s.act.scanRowOf y.toNat) b x.toNat →
    exec (.setpx x y red green blue) s = .fault .noSuchBufferWord) ∧
  (∀ (s : State) (rest : List Turn), s.turns = .background :: rest → s.ph = .shift →
    s.act.bufWords ≤ s.dreg.srcOff.toNat + s.shiftK.toNat → step s = .fault .noSuchBufferWord) ∧
  (∀ (s : State) (rest : List Turn), s.turns = .background :: rest → s.st = .running → s.ph = .fetch →
    s.stopReq = false → 512 ≤ s.cur.toNat → step s = .fault .noSuchDescriptor)

/-! ### The background agent and the timeout -/

/-- `BG_FETCH` (rule R187): a stop request is honoured first and adopts nothing; at `CUR = 0` with a commit pending the swap is
made, `ACTIVE` flipped, `PENDING` cleared and the D descriptors re-pointed (rule R166); then the descriptor is loaded. No
buffer word is copied (rule R163). -/
def Obligations.FetchStopsAdoptsOrLoads : Prop :=
  ∀ (s : State) (rest : List Turn), s.turns = .background :: rest → s.st = .running → s.ph = .fetch →
    (s.stopReq = true →
      step s = .next ({ s.inTurn rest with stopReq := false, st := .stopped, ph := .off }.withAnswer 0x00 0)) ∧
    (s.stopReq = false → ¬ (s.cur = 0 ∧ s.pending = true) → ∀ r, s.desc[s.cur.toNat]? = some r →
      step s = .next { s.inTurn rest with dreg := r, shiftK := 0, ph := .shift }) ∧
    (s.stopReq = false → s.cur = 0 → s.pending = true →
      ∃ (desc : Vector Descriptor Config.maxDescriptors) (r : Descriptor),
        desc[0]? = some r ∧
        step s = .next { s.inTurn rest with
          active := s.active.other, pending := false, desc := desc, dreg := r, shiftK := 0, ph := .shift } ∧
        ∀ d e, s.desc[d]? = some e →
          desc[d]? = some (if d < s.act.descriptors then { e with srcBuf := s.active.other } else e))

/-- `BG_SHIFT` (rule R214): one word of the descriptor's buffer goes into `SR` and onto `DATA` with one pulse of `CLK_OUT`; after
the last word `DATA` returns to 0 and the latch is next. The model's choices in it: between two shifts `DATA` keeps the word
last driven, and the pulse of `CLK_OUT` is an event of the waveform (log entry 9); the stale words of `SR`, which may have
any value, are kept (log entry 11). -/
def Obligations.ShiftTransfersOneWord : Prop :=
  ∀ (s : State) (rest : List Turn), s.turns = .background :: rest → s.ph = .shift → s.sr.wf = true →
    s.dreg.srcOff.toNat + s.shiftK.toNat < s.act.bufWords →
    ∃ sr : Memory,
      let w := (s.buf s.dreg.srcBuf).readWord (s.dreg.srcOff.toNat + s.shiftK.toNat)
      step s = .next { s.inTurn rest with
        sr := sr, shiftK := s.shiftK + 1, wave := s.wave ++ [.shiftClock w],
        pins := { s.pins with data := if s.shiftK + 1 = s.dreg.len then 0 else w, clkOut := false },
        ph := if s.shiftK + 1 = s.dreg.len then .latch else .shift } ∧
      ∀ x, sr.readWord x = if x = s.shiftK.toNat then w else s.sr.readWord x

/-- `BG_LATCH` (rule R215): `ADDR` takes the row, `LAT` pulses once, and exactly one `PULSE` record is emitted with the words
shifted. That `OE_N` keeps its level until `BG_HOLD` is taken, in `PH_HOLD` too, and that the pulse of `LAT` is an event of
the waveform, is the model's reading of rules R211 and R216, log entry 9. -/
def Obligations.LatchEmitsThePulse : Prop :=
  ∀ (s : State) (rest : List Turn), s.turns = .background :: rest → s.ph = .latch →
    step s = .next { s.inTurn rest with
      pins := { s.pins with addr := s.dreg.row, lat := false }
      wave := s.wave ++ [.latchPulse s.dreg.row]
      observed := s.observed ++ [.pulse s.dreg.row s.dreg.plane s.dreg.srcBuf
        ((List.range s.dreg.len.toNat).map fun x => s.sr.readWord x) s.dreg.hold]
      ph := .hold }

/-- `BG_HOLD` (rule R216): the enable is asserted for exactly `DREG.hold` periods, then deasserted; no record. That the
interval is an event of the waveform is the model's, log entry 9. -/
def Obligations.HoldEnablesForTheHold : Prop :=
  ∀ (s : State) (rest : List Turn), s.turns = .background :: rest → s.ph = .hold →
    step s = .next { s.inTurn rest with
      wave := s.wave ++ [.enable s.dreg.hold], pins := { s.pins with oeN := true }, ph := .done }

/-- `BG_DONE` (rule R189): `CUR` advances to `DREG.next`; a completed cycle gives the restart back; no record. -/
def Obligations.DoneAdvancesTheRing : Prop :=
  ∀ (s : State) (rest : List Turn), s.turns = .background :: rest → s.ph = .done →
    step s = .next { s.inTurn rest with
      cur := s.dreg.next, retryUsed := if s.dreg.next = 0 then false else s.retryUsed, ph := .fetch }

/-- The first `TIMEOUT` of a cycle, at any moment a pulse is in flight: counted and recorded, pins idle, `ABORT(CUR)`, and the
ring restarts at descriptor 0 (rules R276 and R277). A pulse cut in its hold was enabled for some part of it, between 0 and
`hold` periods: a free value (U14, log entry 4). -/
def Obligations.FirstTimeoutRestartsTheRing : Prop :=
  ∀ (s : State) (rest : List Turn), s.turns = .timeout :: rest → s.st = .running →
    s.ph = .shift ∨ s.ph = .latch ∨ s.ph = .hold ∨ s.ph = .done → s.retryUsed = false →
    ∃ (wave : List PinEvent) (n : Nat),
      step s = .next { s.inTurn rest with
        wave := wave, freeCount := n
        faultCount := BitVec.ofNat 32 (min (s.faultCount.toNat + 1) (2 ^ 32 - 1))
        faultInfo := BitVec.ofNat 32 (s.ph.code.toNat * 2 ^ 16 + s.cur.toNat)
        pins := { data := 0, clkOut := false, lat := false, oeN := true, addr := s.pins.addr }
        observed := s.observed ++ [.abort s.cur]
        retryUsed := true, cur := 0, shiftK := 0, ph := .fetch } ∧
      (s.ph ≠ .hold → wave = s.wave) ∧
      (s.ph = .hold → ∃ p : BitVec 48, wave = s.wave ++ [.enable p] ∧ p.toNat ≤ s.dreg.hold.toNat)

/-- A second `TIMEOUT` before a cycle has completed escalates: `FAULT` is latched, the chain is off, `CUR` keeps the descriptor
that was in flight, and a waiting `STOP` is answered `SequencerFault` (rules R276 and R278). -/
def Obligations.SecondTimeoutEscalates : Prop :=
  ∀ (s : State) (rest : List Turn), s.turns = .timeout :: rest → s.st = .running →
    s.ph = .shift ∨ s.ph = .latch ∨ s.ph = .hold ∨ s.ph = .done → s.retryUsed = true →
    ∃ (wave : List PinEvent) (n : Nat) (u : State),
      u = { s.inTurn rest with
        wave := wave, freeCount := n
        faultCount := BitVec.ofNat 32 (min (s.faultCount.toNat + 1) (2 ^ 32 - 1))
        faultInfo := BitVec.ofNat 32 (s.ph.code.toNat * 2 ^ 16 + s.cur.toNat)
        pins := { data := 0, clkOut := false, lat := false, oeN := true, addr := s.pins.addr }
        observed := s.observed ++ [.abort s.cur]
        fault := true, st := .stopped, ph := .off, stopReq := false } ∧
      step s = .next (if s.stopReq = true then u.withAnswer 0x03 0 else u) ∧
      (s.ph ≠ .hold → wave = s.wave) ∧
      (s.ph = .hold → ∃ p : BitVec 48, wave = s.wave ++ [.enable p] ∧ p.toNat ≤ s.dreg.hold.toNat)

/-- `TIMEOUT` cannot occur where nothing is in flight: such a turn changes nothing (rule R275; that the turn is spent is the
model's, log entry 5). The same of the background agent is `BackgroundTurnOutsideARunDoesNothing`. -/
def Obligations.TimeoutOutsideAPulseDoesNothing : Prop :=
  ∀ (s : State) (rest : List Turn), s.turns = .timeout :: rest →
    s.st ≠ .running ∨ s.ph = .off ∨ s.ph = .fetch → step s = .next (s.inTurn rest)

/-- The background agent has no step where the chain is off (rules R11 and R311), nor at a fetch outside `Running`: such a turn
changes nothing (that the turn is spent is the model's, log entry 5). -/
def Obligations.BackgroundTurnOutsideARunDoesNothing : Prop :=
  ∀ (s : State) (rest : List Turn), s.turns = .background :: rest →
    s.ph = .off ∨ (s.ph = .fetch ∧ s.st ≠ .running) → step s = .next (s.inTurn rest)

/-! ### Invariants that every step keeps -/

/-- The invariant of rule R43, with what the other rules add to it, is kept by every step of every agent. Two of its parts are
the model's: that `OE_N` is 1 between steps in `PH_HOLD` too (log entry 9), and the canonical form of the memories (log
entry 3). -/
def Obligations.StepKeepsTheInvariant : Prop :=
  ∀ s t : State, s.Inv → step s = .next t → t.Inv

/-- The state after reset meets the invariant. Its memory clause rests on the model's choice of empty memories after reset,
which the spec leaves unspecified (log entry 3). -/
def Obligations.ResetMeetsTheInvariant : Prop := State.reset.Inv

/-- From a state that meets the invariant every turn of every agent completes: no fault and no refusal. -/
def Obligations.StepCompletesUnderTheInvariant : Prop :=
  ∀ s : State, s.Inv → ∃ t, step s = .next t

/-- Every step keeps the buffers and the shift mirror canonical, with bits 7:6 of every byte zero (rule R43 (d); the canonical
form is the model's, log entry 3). -/
def Obligations.StepKeepsMemoriesCanonical : Prop :=
  ∀ s t : State, s.MemoryInv → step s = .next t → t.MemoryInv

/-- The memories after reset are canonical: the spec leaves them unspecified, and that the model has them empty is its choice,
log entry 3. -/
def Obligations.ResetMemoriesAreCanonical : Prop := State.reset.MemoryInv

/-- Swap atomicity: no step ever makes a torn cycle; within a cycle all `PULSE` records carry the same `buf` (rule R74). The statement carries the machine's invariant, and so
the model's choices in it: the level of `OE_N` in `PH_HOLD` (log entry 9), the canonical form of the memories (log entry 3);
and the observation that it speaks of is kept through a reset (log entries 6 and 8). -/
def Obligations.StepKeepsCyclesUntorn : Prop :=
  ∀ s t : State, s.SwapInv → step s = .next t → t.SwapInv

/-- No cycle is torn after reset: the observation starts empty (log entry 8), and the machine's invariant, which the statement
carries, holds of the model's empty memories (log entry 3). -/
def Obligations.ResetCyclesAreUntorn : Prop := State.reset.SwapInv

/-! ### Rules about the whole machine -/

/-- Who may write the buffers (rule R63): a turn that changes a buffer is `rst`, or an `INIT` outside `Running`, or a `SETPX` or
`CLEAR`, which leave the active buffer alone; so no turn but `rst` writes `BUF[ACTIVE]` while `Running` (rule R43 (h)). -/
def Obligations.OnlyForegroundWritesReachTheBuffers : Prop :=
  ∀ (tn : Turn) (s t : State), takeTurn tn s = .next t →
    ((t.bufA = s.bufA ∧ t.bufB = s.bufB) ∨ tn = .reset ∨
      (∃ w, tn = .command w ∧ decode w = .ok .init ∧ s.st ≠ .running) ∨
      (∃ w i, tn = .command w ∧ decode w = .ok i ∧ (i = .clear ∨ ∃ x y r g b, i = .setpx x y r g b) ∧
        t.buf s.active = s.buf s.active)) ∧
    (s.st = .running → tn ≠ .reset → t.buf s.active = s.buf s.active)

/-- Every way the schedule pointer changes (rule R190): `BG_DONE` takes it to `(CUR + 1) mod D`; `START`, a chain restart, `INIT`
and `rst` take it to 0; nothing else writes it. -/
def Obligations.CurChangesOnlyAsListed : Prop :=
  ∀ (tn : Turn) (s t : State), s.Inv → takeTurn tn s = .next t →
    t.cur = s.cur ∨
    (tn = .background ∧ s.ph = .done ∧ t.cur = s.dreg.next ∧ t.cur.toNat = (s.cur.toNat + 1) % s.act.descriptors) ∨
    (t.cur = 0 ∧ (tn = .reset ∨
      (∃ w, tn = .command w ∧ decode w = .ok .start ∧ (s.st = .ready ∨ s.st = .stopped)) ∨
      (tn = .timeout ∧ s.st = .running ∧ s.ph.inFlight = true ∧ s.retryUsed = false) ∨
      (∃ w, tn = .command w ∧ decode w = .ok .init ∧ s.st ≠ .running ∧ s.cfg.Legal s.params)))

/-- The transitions of the engine state, complete (rule R244). -/
def Obligations.EngineStateChangesOnlyAsListed : Prop :=
  ∀ (tn : Turn) (s t : State), takeTurn tn s = .next t →
    t.st = s.st ∨
    (s.st ≠ .running ∧ t.st = .ready ∧ (∃ w, tn = .command w ∧ decode w = .ok .init) ∧ s.cfg.Legal s.params) ∨
    ((s.st = .ready ∨ s.st = .stopped) ∧ t.st = .running ∧ ∃ w, tn = .command w ∧ decode w = .ok .start) ∨
    (s.st = .running ∧ t.st = .stopped ∧ tn = .background ∧ s.ph = .fetch ∧ s.stopReq = true) ∨
    (s.st = .running ∧ t.st = .stopped ∧ tn = .timeout ∧ s.ph.inFlight = true ∧ s.retryUsed = true) ∨
    (tn = .reset ∧ t.st = .uninitialized)

/-- The gamma table, the active configuration and the descriptors' fields other than `src_buf` change only at a successful `INIT`
or at `rst` (rules R31, R120 and R182). -/
def Obligations.TablesChangeOnlyByInit : Prop :=
  ∀ (tn : Turn) (s t : State), takeTurn tn s = .next t →
    (t.lut = s.lut ∧ t.act = s.act ∧
      ∀ (d : Nat) (e : Descriptor), s.desc[d]? = some e → ∃ k, t.desc[d]? = some { e with srcBuf := k }) ∨
    tn = .reset ∨
    (t.act = s.cfg ∧ s.cfg.Legal s.params ∧ s.st ≠ .running ∧ ∃ w, tn = .command w ∧ decode w = .ok .init)

/-- `ACTIVE` flips only in a `BG_FETCH` taken with `CUR = 0` and a commit pending, which clears `PENDING`; otherwise it stays, but
for `INIT` and `rst`, which set it to 0 (rules R22 and R166). -/
def Obligations.ActiveFlipsOnlyAtACycleBoundary : Prop :=
  ∀ (tn : Turn) (s t : State), takeTurn tn s = .next t →
    t.active = s.active ∨
    (tn = .background ∧ s.st = .running ∧ s.ph = .fetch ∧ s.cur = 0 ∧ s.pending = true ∧ s.stopReq = false ∧
      t.active = s.active.other ∧ t.pending = false) ∨
    (t.active = .A ∧ (tn = .reset ∨ ∃ w, tn = .command w ∧ decode w = .ok .init ∧ s.st ≠ .running))

/-! ### The gamma table -/

/-- An entry of the table of a legal configuration is the largest intensity that passes the exact test; the test depends on
the fraction p/q alone; and no tie occurs, so `<` could be `<=` (rule R122). -/
def Obligations.GammaEntryIsTheLargestFit : Prop :=
  ∀ (b : Params) (c : ConfigRegs) (ch : Channel) (i : BitVec 8), c.Legal b →
    let m := 2 ^ c.depth.toNat - 1
    let p := c.gammaRaw ch
    let fits := fun k q p' : Nat => k = 0 ∨ (2 * k - 1) ^ q * 255 ^ p' < (2 * m) ^ q * i.toNat ^ p'
    let entry := ((buildTable c).lookup ch i).toNat
    entry ≤ m ∧ fits entry 256 p ∧ (∀ k, k ≤ m → fits k 256 p → k ≤ entry) ∧
    (∀ k p' q', 0 < q' → p' * 256 = p * q' → (fits k q' p' ↔ fits k 256 p)) ∧
    (∀ k, 0 < k → (2 * k - 1) ^ 256 * 255 ^ p ≠ (2 * m) ^ 256 * i.toNat ^ p)

/-- An entry of the table of a legal configuration is the real-number formula: `round((i / 255)^gamma * (2^N - 1))` with `gamma =
gamma_raw / 256`, the power the real power and `round` to the nearest integer (rule R121). -/
def Obligations.GammaEntryIsTheRoundedPower : Prop :=
  ∀ (b : Params) (c : ConfigRegs) (ch : Channel) (i : BitVec 8), c.Legal b →
    (((buildTable c).lookup ch i).toNat : ℤ) =
      round (((i.toNat : ℝ) / 255) ^ ((c.gammaRaw ch : ℝ) / 256) * ((2 : ℝ) ^ c.depth.toNat - 1))

/-- End points: for every channel and every legal configuration input 0 maps to 0 and input 255 to `M = 2^N - 1` (rule R123). -/
def Obligations.GammaEndPointsAreExact : Prop :=
  ∀ (b : Params) (c : ConfigRegs) (ch : Channel), c.Legal b →
    (buildTable c).lookup ch 0 = 0 ∧ ((buildTable c).lookup ch 255).toNat = 2 ^ c.depth.toNat - 1

/-- In the table of a legal configuration the entries of a channel do not decrease, every entry is at most M, and an entry
depends on its channel's exponent, the depth and the input only (rule R124). -/
def Obligations.GammaTableIsMonotone : Prop :=
  ∀ (b : Params) (c : ConfigRegs) (ch : Channel), c.Legal b →
    (∀ i j : BitVec 8, i.toNat < j.toNat → ((buildTable c).lookup ch i).toNat ≤ ((buildTable c).lookup ch j).toNat) ∧
    (∀ i : BitVec 8, ((buildTable c).lookup ch i).toNat ≤ 2 ^ c.depth.toNat - 1) ∧
    (∀ (c' : ConfigRegs) (ch' : Channel) (i : BitVec 8), c'.gammaRaw ch' = c.gammaRaw ch → c'.depth = c.depth →
      (buildTable c').lookup ch' i = (buildTable c).lookup ch i)

/-- For an exponent that is a positive integer g, `gamma_raw = 256 * g`, the entry is `(2 M i^g + 255^g) div (2 * 255^g)` (rule
R125). -/
def Obligations.GammaClosedFormForIntegerExponents : Prop :=
  ∀ (b : Params) (c : ConfigRegs) (ch : Channel) (i : BitVec 8) (g : Nat), c.Legal b → c.gammaRaw ch = 256 * g →
    ((buildTable c).lookup ch i).toNat =
      (2 * (2 ^ c.depth.toNat - 1) * i.toNat ^ g + 255 ^ g) / (2 * 255 ^ g)

/-! ### What the panel shows -/

/-- The record of a latch carries the words of the active buffer at the region of descriptor `CUR`, as they stand (rules R38,
R61, R72 and R215). -/
def Obligations.PulseCarriesTheActiveBuffer : Prop :=
  ∀ (s : State) (rest : List Turn), s.Inv → s.turns = .background :: rest → s.ph = .latch →
    ∃ t, step s = .next t ∧
      t.observed = s.observed ++ [pulseFor s.act s.active (s.buf s.active) s.cur.toNat]

/-- A cycle that begins at a boundary and is cut by nothing emits exactly the D records of the ring, in ring order, all read
from one buffer: the one just adopted if a commit was pending (rules R12, R166, R168 and R191). -/
def Obligations.CompleteCycleEmitsTheRingInOrder : Prop :=
  ∀ (s : State) (rest : List Turn), s.Inv → s.st = .running → s.ph = .fetch → s.cur = 0 → s.stopReq = false →
    s.turns = List.replicate (s.act.descriptors * (s.act.columns.toNat + 4)) .background ++ rest →
    ∃ t : State,
      Sys2Proof.core.run (s.act.descriptors * (s.act.columns.toNat + 4)) s = .next t ∧
      t.active = (if s.pending = true then s.active.other else s.active) ∧
      t.observed = s.observed ++ cycleRecords s.act t.active (s.buf t.active) ∧
      t.bufA = s.bufA ∧ t.bufB = s.bufB ∧ t.st = .running ∧ t.ph = .fetch ∧ t.cur = 0 ∧ t.pending = false ∧
      t.retryUsed = false ∧ t.turns = rest

/-- The duty-cycle law (rule R185): over the records of a complete cycle, a channel of a pixel is lit for exactly its intensity
times `base_tick`. -/
def Obligations.DutyCycleIsExact : Prop :=
  ∀ (p : Params) (c : ConfigRegs) (k : BufId) (m : Memory) (x y : Nat) (ch : Channel),
    p.Legal → c.Legal p → x < c.columns.toNat → y < c.rows.toNat →
    c.litTicks x y ch (cycleRecords c k m) = c.pixelIntensity m x y ch * c.baseTick.toNat

/-- A waiting `STOP` is answered `OK` within one pulse: at most `columns + 4` steps of the background agent, if nothing else
happens (rules R220, R246, R247 and R323). A pulse in flight is completed: its record is emitted if it was not yet, and no
other record is, no other response among them (rule R91); `CUR` then names the descriptor that would have come next. That
the agent steps is a premise, on the turns. -/
def Obligations.StopIsHonouredWithinOnePulse : Prop :=
  ∀ (s : State) (rest : List Turn), s.Inv → s.st = .running → s.stopReq = true →
    s.turns = List.replicate (s.act.columns.toNat + 4) .background ++ rest →
    ∃ (n : Nat) (t : State),
      n ≤ s.act.columns.toNat + 4 ∧ Sys2Proof.core.run n s = .next t ∧ t.st = .stopped ∧ t.ph = .off ∧
      t.stopReq = false ∧
      t.observed = s.observed ++
        (if s.ph = .shift ∨ s.ph = .latch then [pulseFor s.act s.active (s.buf s.active) s.cur.toNat] else []) ++
        [.rsp 0x00 0] ∧
      t.cur.toNat = (if s.ph = .fetch then s.cur.toNat else (s.cur.toNat + 1) % s.act.descriptors) ∧
      t.active = s.active ∧ t.pending = s.pending ∧ t.bufA = s.bufA ∧ t.bufB = s.bufB

/-- The eight commands of `NEW`, offered one after the other outside `Running`, build the configuration they name when it is
legal: the last is answered `OK` and the engine is `Ready` (rules R100 and R312). -/
def Obligations.NewBuildsTheConfiguration : Prop :=
  ∀ (s : State) (c : ConfigRegs) (rest : List Turn), s.st ≠ .running → s.stopReq = false → c.Legal s.params →
    s.turns = (Assembler.expandNew c.rows c.columns c.depth c.gammaR c.gammaG c.gammaB c.baseTick).map
      (fun i => Turn.command (encode i)) ++ rest →
    ∃ t : State, Sys2Proof.core.run 8 s = .next t ∧ t.st = .ready ∧ t.cfg = c ∧ t.act = c ∧ t.turns = rest ∧
      t.observed = s.observed ++ List.replicate 8 (.rsp 0x00 0)
end

