-- ==== Sys2Proof/Laws/Memory.lean ====
section
/-! SUPPORT. The laws of the word arrays: a read after a write, every operation keeps the canonical form and the zero bits
7:6, and canonical arrays that read alike are equal. -/

namespace Sys2Proof.Machine

@[simp] theorem Memory.read_nil (a : Nat) : Memory.read [] a = Memory.unlisted := rfl

theorem Memory.read_cons (b : Nat) (v : Byte) (m : Memory) (a : Nat) :
    Memory.read ((b, v) :: m) a = if a = b then v else Memory.read m a := rfl

theorem Memory.wf_cons {a : Nat} {v : Byte} {m : Memory} :
    Memory.wf ((a, v) :: m) = true ↔ v ≠ Memory.unlisted ∧ (∀ c ∈ m, a < c.1) ∧ Memory.wf m = true := by
  simp [Memory.wf, and_assoc]

/-- An address below every listed one reads as unlisted. -/
theorem Memory.read_of_lt {m : Memory} {a : Nat} (h : ∀ c ∈ m, a < c.1) : m.read a = Memory.unlisted := by
  induction m with
  | nil => rfl
  | cons c m ih =>
    have hc := h c (by simp)
    rw [show c = (c.1, c.2) from rfl, Memory.read_cons, if_neg (by omega)]
    exact ih fun d hd => h d (by simp [hd])

/-- Every address a write lists was listed before or is the one written. -/
theorem Memory.mem_write {m : Memory} {a : Nat} {v : Byte} {c : Host.Cell} (h : c ∈ m.write a v) :
    c ∈ m ∨ c = (a, v) := by
  induction m with
  | nil => simp only [Memory.write] at h; split at h <;> simp_all
  | cons d m ih =>
    obtain ⟨b, u⟩ := d
    simp only [Memory.write] at h
    split at h
    · split at h <;> simp_all
      tauto
    · split at h
      · split at h <;> simp_all
        tauto
      · rcases List.mem_cons.1 h with h | h
        · exact .inl (by simp [h])
        · exact (ih h).imp (by intro h; simp [h]) id

/-- A read of the address just written gives the byte written. -/
theorem Memory.read_write_same {m : Memory} (h : m.wf = true) (a : Nat) (v : Byte) : (m.write a v).read a = v := by
  induction m with
  | nil => simp only [Memory.write]; split <;> simp_all [Memory.read]
  | cons d m ih =>
    obtain ⟨b, u⟩ := d
    obtain ⟨-, hlt, hm⟩ := Memory.wf_cons.1 h
    simp only [Memory.write]
    split
    · rename_i hab
      split
      · rename_i hv
        rw [Memory.read_cons, if_neg (by omega), Memory.read_of_lt (fun c hc => by have := hlt c hc; omega), hv]
      · simp [Memory.read_cons]
    · split
      · rename_i hab
        subst hab
        split
        · rename_i hv
          rw [Memory.read_of_lt hlt, hv]
        · simp [Memory.read_cons]
      · rename_i hne
        rw [Memory.read_cons, if_neg hne]
        exact ih hm

/-- A write leaves every other address as it was. -/
theorem Memory.read_write_other (m : Memory) {a b : Nat} (v : Byte) (hab : b ≠ a) :
    (m.write a v).read b = m.read b := by
  induction m with
  | nil => simp only [Memory.write]; split <;> simp [Memory.read_cons, hab]
  | cons d m ih =>
    obtain ⟨e, u⟩ := d
    simp only [Memory.write]
    split
    · split <;> simp [Memory.read_cons, hab]
    · split
      · rename_i hae
        subst hae
        split <;> simp [Memory.read_cons, hab]
      · simp [Memory.read_cons, ih]

/-- What a byte reads as after a write. -/
theorem Memory.read_write {m : Memory} (h : m.wf = true) (a b : Nat) (v : Byte) :
    (m.write a v).read b = if b = a then v else m.read b := by
  split
  · subst b; exact Memory.read_write_same h a v
  · exact Memory.read_write_other m v (by assumption)

/-- A write keeps the canonical form. -/
theorem Memory.wf_write {m : Memory} (h : m.wf = true) (a : Nat) (v : Byte) : (m.write a v).wf = true := by
  induction m with
  | nil => simp only [Memory.write]; split <;> simp_all [Memory.wf]
  | cons d m ih =>
    obtain ⟨b, u⟩ := d
    obtain ⟨hu, hlt, hm⟩ := Memory.wf_cons.1 h
    simp only [Memory.write]
    split
    · rename_i hab
      split
      · exact h
      · rename_i hv
        refine Memory.wf_cons.2 ⟨hv, ?_, h⟩
        intro c hc
        rcases List.mem_cons.1 hc with rfl | hc
        · exact hab
        · have := hlt c hc; omega
    · split
      · rename_i hab
        subst hab
        split
        · exact hm
        · rename_i hv; exact Memory.wf_cons.2 ⟨hv, hlt, hm⟩
      · refine Memory.wf_cons.2 ⟨hu, ?_, ih hm⟩
        intro c hc
        rcases Memory.mem_write hc with hc | rfl
        · exact hlt c hc
        · show b < a; omega

/-- Zeroing a range keeps the canonical form. -/
theorem Memory.wf_zeroBelow {m : Memory} (h : m.wf = true) (n : Nat) : (m.zeroBelow n).wf = true := by
  induction m with
  | nil => rfl
  | cons d m ih =>
    obtain ⟨b, u⟩ := d
    obtain ⟨hu, hlt, hm⟩ := Memory.wf_cons.1 h
    have ih' := ih hm
    simp only [Memory.zeroBelow] at ih' ⊢
    rw [List.filter_cons]
    split
    · exact Memory.wf_cons.2 ⟨hu, fun c hc => hlt c (List.mem_filter.1 hc).1, ih'⟩
    · exact ih'

/-- What a byte reads as after the words below `n` are zeroed. -/
theorem Memory.read_zeroBelow (m : Memory) (n a : Nat) :
    (m.zeroBelow n).read a = if a < n then 0 else m.read a := by
  induction m with
  | nil => simp [Memory.zeroBelow, Memory.unlisted]
  | cons d m ih =>
    obtain ⟨b, u⟩ := d
    simp only [Memory.zeroBelow] at ih ⊢
    rw [List.filter_cons]
    by_cases hb : n ≤ b
    · rw [if_pos (by simpa using hb), Memory.read_cons, Memory.read_cons, ih]
      by_cases hab : a = b
      · subst hab; simp [hb]
      · simp [hab]
    · rw [if_neg (by simpa using hb), Memory.read_cons, ih]
      by_cases hab : a = b
      · subst hab; simp [Nat.lt_of_not_le hb]
      · simp [hab]

/-- The word written, read back. -/
theorem Memory.readWord_writeWord {m : Memory} (h : m.wf = true) (a b : Nat) (w : PixelWord) :
    (m.writeWord a w).readWord b = if b = a then w else m.readWord b := by
  simp only [Memory.readWord, Memory.writeWord, Memory.read_write h]
  split
  · rw [BitVec.setWidth_setWidth_of_le _ (by decide), BitVec.setWidth_eq]
  · rfl

/-- A word write leaves the bytes at every other address as they were. -/
theorem Memory.read_writeWord_other (m : Memory) {a b : Nat} (w : PixelWord) (h : b ≠ a) :
    (m.writeWord a w).read b = m.read b := Memory.read_write_other m _ h

theorem Memory.wf_writeWord {m : Memory} (h : m.wf = true) (a : Nat) (w : PixelWord) : (m.writeWord a w).wf = true :=
  Memory.wf_write h a _

theorem Memory.readWord_zeroBelow (m : Memory) (n a : Nat) :
    (m.zeroBelow n).readWord a = if a < n then 0 else m.readWord a := by
  simp only [Memory.readWord, Memory.read_zeroBelow]
  split <;> rfl

theorem Memory.sixBit_iff {m : Memory} : m.sixBit = true ↔ ∀ c ∈ m, c.2.toNat < 64 := by
  simp [Memory.sixBit]

/-- A word write keeps bits 7:6 of every byte zero (rule R43 (d)). -/
theorem Memory.sixBit_writeWord {m : Memory} (h : m.sixBit = true) (a : Nat) (w : PixelWord) :
    (m.writeWord a w).sixBit = true := by
  rw [Memory.sixBit_iff] at h ⊢
  intro c hc
  rcases Memory.mem_write hc with hc | rfl
  · exact h c hc
  · have := w.isLt
    simp only [BitVec.toNat_setWidth]
    omega

theorem Memory.sixBit_zeroBelow {m : Memory} (h : m.sixBit = true) (n : Nat) : (m.zeroBelow n).sixBit = true := by
  rw [Memory.sixBit_iff] at h ⊢
  exact fun c hc => h c (List.mem_filter.1 hc).1

/-- Equal memories are equal data: two canonical arrays that read alike everywhere are the same list. -/
theorem Memory.ext_of_wf {m n : Memory} (hm : m.wf = true) (hn : n.wf = true) (h : ∀ a, m.read a = n.read a) : m = n := by
  induction m generalizing n with
  | nil =>
    cases n with
    | nil => rfl
    | cons d n =>
      obtain ⟨b, u⟩ := d
      have := h b
      simp [Memory.read_cons] at this
      exact absurd this.symm (Memory.wf_cons.1 hn).1
  | cons d m ih =>
    obtain ⟨b, u⟩ := d
    obtain ⟨hu, hlt, hm'⟩ := Memory.wf_cons.1 hm
    cases n with
    | nil =>
      have := h b
      simp [Memory.read_cons] at this
      exact absurd this hu
    | cons e n =>
      obtain ⟨c, v⟩ := e
      obtain ⟨hv, hlt', hn'⟩ := Memory.wf_cons.1 hn
      have hbc : b = c := by
        rcases lt_trichotomy b c with hbc | hbc | hbc
        · have h1 := h b
          rw [Memory.read_cons, if_pos rfl, Memory.read_of_lt (m := (c, v) :: n)] at h1
          · exact absurd h1 hu
          · intro x hx
            rcases List.mem_cons.1 hx with rfl | hx
            · exact hbc
            · have := hlt' x hx; omega
        · exact hbc
        · have h1 := h c
          rw [Memory.read_of_lt (m := (b, u) :: m), Memory.read_cons, if_pos rfl] at h1
          · exact absurd h1.symm hv
          · intro x hx
            rcases List.mem_cons.1 hx with rfl | hx
            · exact hbc
            · have := hlt x hx; omega
      subst hbc
      have huv : u = v := by simpa [Memory.read_cons] using h b
      subst huv
      rw [ih hm' hn']
      intro a
      by_cases hab : a = b
      · subst hab
        rw [Memory.read_of_lt hlt, Memory.read_of_lt hlt']
      · simpa [Memory.read_cons, hab] using h a

end Sys2Proof.Machine
end

