-- ==== Sys2Proof/Laws/State.lean ====
section
/-! SUPPORT. The small lemmas of the state: what every named update does to every field, true by rfl. The simp normal form
of a response is `State.emitRsp`. -/

namespace Sys2Proof.Machine

/-! ### The responses are all `emitRsp` -/

@[simp] theorem State.respond_eq (s : State) (d : Reg32) : s.respond d = s.emitRsp statusOk d := rfl
@[simp] theorem State.raise_eq (s : State) (k : ErrorKind) (d : Reg32) : s.raise k d = s.emitRsp k.code d := rfl
@[simp] theorem State.illegal_eq (s : State) : s.illegal = s.emitRsp ErrorKind.illegalCommand.code 0 := rfl
@[simp] theorem State.stateError_eq (s : State) :
    s.stateError = s.emitRsp ErrorKind.stateError.code (s.st.code.setWidth 32) := rfl

/-! ### The response of a command (rule R97) -/

@[simp] theorem State.emitRsp_st (s : State) (a : BitVec 8) (d : Reg32) : (s.emitRsp a d).st = s.st := rfl
@[simp] theorem State.emitRsp_active (s : State) (a : BitVec 8) (d : Reg32) : (s.emitRsp a d).active = s.active := rfl
@[simp] theorem State.emitRsp_pending (s : State) (a : BitVec 8) (d : Reg32) :
    (s.emitRsp a d).pending = s.pending := rfl
@[simp] theorem State.emitRsp_stopReq (s : State) (a : BitVec 8) (d : Reg32) :
    (s.emitRsp a d).stopReq = s.stopReq := rfl
@[simp] theorem State.emitRsp_retryUsed (s : State) (a : BitVec 8) (d : Reg32) :
    (s.emitRsp a d).retryUsed = s.retryUsed := rfl
@[simp] theorem State.emitRsp_fault (s : State) (a : BitVec 8) (d : Reg32) : (s.emitRsp a d).fault = s.fault := rfl
@[simp] theorem State.emitRsp_cur (s : State) (a : BitVec 8) (d : Reg32) : (s.emitRsp a d).cur = s.cur := rfl
@[simp] theorem State.emitRsp_ph (s : State) (a : BitVec 8) (d : Reg32) : (s.emitRsp a d).ph = s.ph := rfl
@[simp] theorem State.emitRsp_shiftK (s : State) (a : BitVec 8) (d : Reg32) : (s.emitRsp a d).shiftK = s.shiftK := rfl
@[simp] theorem State.emitRsp_dreg (s : State) (a : BitVec 8) (d : Reg32) : (s.emitRsp a d).dreg = s.dreg := rfl
@[simp] theorem State.emitRsp_sr (s : State) (a : BitVec 8) (d : Reg32) : (s.emitRsp a d).sr = s.sr := rfl
@[simp] theorem State.emitRsp_cfg (s : State) (a : BitVec 8) (d : Reg32) : (s.emitRsp a d).cfg = s.cfg := rfl
@[simp] theorem State.emitRsp_act (s : State) (a : BitVec 8) (d : Reg32) : (s.emitRsp a d).act = s.act := rfl
@[simp] theorem State.emitRsp_oobCount (s : State) (a : BitVec 8) (d : Reg32) :
    (s.emitRsp a d).oobCount = s.oobCount := rfl
@[simp] theorem State.emitRsp_faultCount (s : State) (a : BitVec 8) (d : Reg32) :
    (s.emitRsp a d).faultCount = s.faultCount := rfl
@[simp] theorem State.emitRsp_faultInfo (s : State) (a : BitVec 8) (d : Reg32) :
    (s.emitRsp a d).faultInfo = s.faultInfo := rfl
@[simp] theorem State.emitRsp_lut (s : State) (a : BitVec 8) (d : Reg32) : (s.emitRsp a d).lut = s.lut := rfl
@[simp] theorem State.emitRsp_desc (s : State) (a : BitVec 8) (d : Reg32) : (s.emitRsp a d).desc = s.desc := rfl
@[simp] theorem State.emitRsp_bufA (s : State) (a : BitVec 8) (d : Reg32) : (s.emitRsp a d).bufA = s.bufA := rfl
@[simp] theorem State.emitRsp_bufB (s : State) (a : BitVec 8) (d : Reg32) : (s.emitRsp a d).bufB = s.bufB := rfl
@[simp] theorem State.emitRsp_pins (s : State) (a : BitVec 8) (d : Reg32) : (s.emitRsp a d).pins = s.pins := rfl
@[simp] theorem State.emitRsp_cmd (s : State) (a : BitVec 8) (d : Reg32) : (s.emitRsp a d).cmd = s.cmd := rfl
@[simp] theorem State.emitRsp_rspReg (s : State) (a : BitVec 8) (d : Reg32) :
    (s.emitRsp a d).rspReg = responseWord a d := rfl
@[simp] theorem State.emitRsp_rspValid (s : State) (a : BitVec 8) (d : Reg32) : (s.emitRsp a d).rspValid = true := rfl
@[simp] theorem State.emitRsp_observed (s : State) (a : BitVec 8) (d : Reg32) :
    (s.emitRsp a d).observed = s.observed ++ [.rsp a d] := rfl
@[simp] theorem State.emitRsp_wave (s : State) (a : BitVec 8) (d : Reg32) : (s.emitRsp a d).wave = s.wave := rfl
@[simp] theorem State.emitRsp_turns (s : State) (a : BitVec 8) (d : Reg32) : (s.emitRsp a d).turns = s.turns := rfl
@[simp] theorem State.emitRsp_freeCount (s : State) (a : BitVec 8) (d : Reg32) :
    (s.emitRsp a d).freeCount = s.freeCount := rfl
@[simp] theorem State.emitRsp_params (s : State) (a : BitVec 8) (d : Reg32) : (s.emitRsp a d).params = s.params := rfl

/-! ### The restart of the chain (rule R277) -/

@[simp] theorem State.restart_st (s : State) : s.restart.st = s.st := rfl
@[simp] theorem State.restart_active (s : State) : s.restart.active = s.active := rfl
@[simp] theorem State.restart_pending (s : State) : s.restart.pending = s.pending := rfl
@[simp] theorem State.restart_stopReq (s : State) : s.restart.stopReq = s.stopReq := rfl
@[simp] theorem State.restart_retryUsed (s : State) : s.restart.retryUsed = true := rfl
@[simp] theorem State.restart_fault (s : State) : s.restart.fault = s.fault := rfl
@[simp] theorem State.restart_cur (s : State) : s.restart.cur = 0 := rfl
@[simp] theorem State.restart_ph (s : State) : s.restart.ph = .fetch := rfl
@[simp] theorem State.restart_shiftK (s : State) : s.restart.shiftK = 0 := rfl
@[simp] theorem State.restart_dreg (s : State) : s.restart.dreg = s.dreg := rfl
@[simp] theorem State.restart_sr (s : State) : s.restart.sr = s.sr := rfl
@[simp] theorem State.restart_cfg (s : State) : s.restart.cfg = s.cfg := rfl
@[simp] theorem State.restart_act (s : State) : s.restart.act = s.act := rfl
@[simp] theorem State.restart_oobCount (s : State) : s.restart.oobCount = s.oobCount := rfl
@[simp] theorem State.restart_faultCount (s : State) : s.restart.faultCount = s.faultCount := rfl
@[simp] theorem State.restart_faultInfo (s : State) : s.restart.faultInfo = s.faultInfo := rfl
@[simp] theorem State.restart_lut (s : State) : s.restart.lut = s.lut := rfl
@[simp] theorem State.restart_desc (s : State) : s.restart.desc = s.desc := rfl
@[simp] theorem State.restart_bufA (s : State) : s.restart.bufA = s.bufA := rfl
@[simp] theorem State.restart_bufB (s : State) : s.restart.bufB = s.bufB := rfl
@[simp] theorem State.restart_pins (s : State) : s.restart.pins = s.pins := rfl
@[simp] theorem State.restart_cmd (s : State) : s.restart.cmd = s.cmd := rfl
@[simp] theorem State.restart_rspReg (s : State) : s.restart.rspReg = s.rspReg := rfl
@[simp] theorem State.restart_rspValid (s : State) : s.restart.rspValid = s.rspValid := rfl
@[simp] theorem State.restart_observed (s : State) : s.restart.observed = s.observed := rfl
@[simp] theorem State.restart_wave (s : State) : s.restart.wave = s.wave := rfl
@[simp] theorem State.restart_turns (s : State) : s.restart.turns = s.turns := rfl
@[simp] theorem State.restart_freeCount (s : State) : s.restart.freeCount = s.freeCount := rfl
@[simp] theorem State.restart_params (s : State) : s.restart.params = s.params := rfl

/-! ### The start of the chain (rule R245) -/

@[simp] theorem State.startChain_st (s : State) : s.startChain.st = .running := rfl
@[simp] theorem State.startChain_active (s : State) : s.startChain.active = s.active := rfl
@[simp] theorem State.startChain_pending (s : State) : s.startChain.pending = s.pending := rfl
@[simp] theorem State.startChain_stopReq (s : State) : s.startChain.stopReq = s.stopReq := rfl
@[simp] theorem State.startChain_retryUsed (s : State) : s.startChain.retryUsed = false := rfl
@[simp] theorem State.startChain_fault (s : State) : s.startChain.fault = false := rfl
@[simp] theorem State.startChain_cur (s : State) : s.startChain.cur = 0 := rfl
@[simp] theorem State.startChain_ph (s : State) : s.startChain.ph = .fetch := rfl
@[simp] theorem State.startChain_shiftK (s : State) : s.startChain.shiftK = 0 := rfl
@[simp] theorem State.startChain_dreg (s : State) : s.startChain.dreg = s.dreg := rfl
@[simp] theorem State.startChain_sr (s : State) : s.startChain.sr = s.sr := rfl
@[simp] theorem State.startChain_cfg (s : State) : s.startChain.cfg = s.cfg := rfl
@[simp] theorem State.startChain_act (s : State) : s.startChain.act = s.act := rfl
@[simp] theorem State.startChain_oobCount (s : State) : s.startChain.oobCount = s.oobCount := rfl
@[simp] theorem State.startChain_faultCount (s : State) : s.startChain.faultCount = s.faultCount := rfl
@[simp] theorem State.startChain_faultInfo (s : State) : s.startChain.faultInfo = s.faultInfo := rfl
@[simp] theorem State.startChain_lut (s : State) : s.startChain.lut = s.lut := rfl
@[simp] theorem State.startChain_desc (s : State) : s.startChain.desc = s.desc := rfl
@[simp] theorem State.startChain_bufA (s : State) : s.startChain.bufA = s.bufA := rfl
@[simp] theorem State.startChain_bufB (s : State) : s.startChain.bufB = s.bufB := rfl
@[simp] theorem State.startChain_pins (s : State) : s.startChain.pins = s.pins := rfl
@[simp] theorem State.startChain_cmd (s : State) : s.startChain.cmd = s.cmd := rfl
@[simp] theorem State.startChain_rspReg (s : State) : s.startChain.rspReg = s.rspReg := rfl
@[simp] theorem State.startChain_rspValid (s : State) : s.startChain.rspValid = s.rspValid := rfl
@[simp] theorem State.startChain_observed (s : State) : s.startChain.observed = s.observed := rfl
@[simp] theorem State.startChain_wave (s : State) : s.startChain.wave = s.wave := rfl
@[simp] theorem State.startChain_turns (s : State) : s.startChain.turns = s.turns := rfl
@[simp] theorem State.startChain_freeCount (s : State) : s.startChain.freeCount = s.freeCount := rfl
@[simp] theorem State.startChain_params (s : State) : s.startChain.params = s.params := rfl

/-! ### The bookkeeping of a timeout (rule R276) -/

@[simp] theorem State.recordFault_st (s : State) : s.recordFault.st = s.st := rfl
@[simp] theorem State.recordFault_active (s : State) : s.recordFault.active = s.active := rfl
@[simp] theorem State.recordFault_pending (s : State) : s.recordFault.pending = s.pending := rfl
@[simp] theorem State.recordFault_stopReq (s : State) : s.recordFault.stopReq = s.stopReq := rfl
@[simp] theorem State.recordFault_retryUsed (s : State) : s.recordFault.retryUsed = s.retryUsed := rfl
@[simp] theorem State.recordFault_fault (s : State) : s.recordFault.fault = s.fault := rfl
@[simp] theorem State.recordFault_cur (s : State) : s.recordFault.cur = s.cur := rfl
@[simp] theorem State.recordFault_ph (s : State) : s.recordFault.ph = s.ph := rfl
@[simp] theorem State.recordFault_shiftK (s : State) : s.recordFault.shiftK = s.shiftK := rfl
@[simp] theorem State.recordFault_dreg (s : State) : s.recordFault.dreg = s.dreg := rfl
@[simp] theorem State.recordFault_sr (s : State) : s.recordFault.sr = s.sr := rfl
@[simp] theorem State.recordFault_cfg (s : State) : s.recordFault.cfg = s.cfg := rfl
@[simp] theorem State.recordFault_act (s : State) : s.recordFault.act = s.act := rfl
@[simp] theorem State.recordFault_oobCount (s : State) : s.recordFault.oobCount = s.oobCount := rfl
@[simp] theorem State.recordFault_faultCount (s : State) :
    s.recordFault.faultCount = saturatingInc s.faultCount := rfl
@[simp] theorem State.recordFault_faultInfo (s : State) : s.recordFault.faultInfo = s.faultWord := rfl
@[simp] theorem State.recordFault_lut (s : State) : s.recordFault.lut = s.lut := rfl
@[simp] theorem State.recordFault_desc (s : State) : s.recordFault.desc = s.desc := rfl
@[simp] theorem State.recordFault_bufA (s : State) : s.recordFault.bufA = s.bufA := rfl
@[simp] theorem State.recordFault_bufB (s : State) : s.recordFault.bufB = s.bufB := rfl
@[simp] theorem State.recordFault_pins (s : State) : s.recordFault.pins = Pins.idle s.pins.addr := rfl
@[simp] theorem State.recordFault_cmd (s : State) : s.recordFault.cmd = s.cmd := rfl
@[simp] theorem State.recordFault_rspReg (s : State) : s.recordFault.rspReg = s.rspReg := rfl
@[simp] theorem State.recordFault_rspValid (s : State) : s.recordFault.rspValid = s.rspValid := rfl
@[simp] theorem State.recordFault_observed (s : State) : s.recordFault.observed = s.observed ++ [.abort s.cur] := rfl
@[simp] theorem State.recordFault_wave (s : State) : s.recordFault.wave = s.wave := rfl
@[simp] theorem State.recordFault_turns (s : State) : s.recordFault.turns = s.turns := rfl
@[simp] theorem State.recordFault_freeCount (s : State) : s.recordFault.freeCount = s.freeCount := rfl
@[simp] theorem State.recordFault_params (s : State) : s.recordFault.params = s.params := rfl

/-! ### The adoption (rule R166) -/

@[simp] theorem State.adopt_st (s : State) : s.adopt.st = s.st := rfl
@[simp] theorem State.adopt_active (s : State) : s.adopt.active = s.active.other := rfl
@[simp] theorem State.adopt_pending (s : State) : s.adopt.pending = false := rfl
@[simp] theorem State.adopt_stopReq (s : State) : s.adopt.stopReq = s.stopReq := rfl
@[simp] theorem State.adopt_retryUsed (s : State) : s.adopt.retryUsed = s.retryUsed := rfl
@[simp] theorem State.adopt_fault (s : State) : s.adopt.fault = s.fault := rfl
@[simp] theorem State.adopt_cur (s : State) : s.adopt.cur = s.cur := rfl
@[simp] theorem State.adopt_ph (s : State) : s.adopt.ph = s.ph := rfl
@[simp] theorem State.adopt_shiftK (s : State) : s.adopt.shiftK = s.shiftK := rfl
@[simp] theorem State.adopt_dreg (s : State) : s.adopt.dreg = s.dreg := rfl
@[simp] theorem State.adopt_sr (s : State) : s.adopt.sr = s.sr := rfl
@[simp] theorem State.adopt_cfg (s : State) : s.adopt.cfg = s.cfg := rfl
@[simp] theorem State.adopt_act (s : State) : s.adopt.act = s.act := rfl
@[simp] theorem State.adopt_oobCount (s : State) : s.adopt.oobCount = s.oobCount := rfl
@[simp] theorem State.adopt_faultCount (s : State) : s.adopt.faultCount = s.faultCount := rfl
@[simp] theorem State.adopt_faultInfo (s : State) : s.adopt.faultInfo = s.faultInfo := rfl
@[simp] theorem State.adopt_lut (s : State) : s.adopt.lut = s.lut := rfl
@[simp] theorem State.adopt_desc (s : State) : s.adopt.desc = repoint s.desc s.act.descriptors s.active.other := rfl
@[simp] theorem State.adopt_bufA (s : State) : s.adopt.bufA = s.bufA := rfl
@[simp] theorem State.adopt_bufB (s : State) : s.adopt.bufB = s.bufB := rfl
@[simp] theorem State.adopt_pins (s : State) : s.adopt.pins = s.pins := rfl
@[simp] theorem State.adopt_cmd (s : State) : s.adopt.cmd = s.cmd := rfl
@[simp] theorem State.adopt_rspReg (s : State) : s.adopt.rspReg = s.rspReg := rfl
@[simp] theorem State.adopt_rspValid (s : State) : s.adopt.rspValid = s.rspValid := rfl
@[simp] theorem State.adopt_observed (s : State) : s.adopt.observed = s.observed := rfl
@[simp] theorem State.adopt_wave (s : State) : s.adopt.wave = s.wave := rfl
@[simp] theorem State.adopt_turns (s : State) : s.adopt.turns = s.turns := rfl
@[simp] theorem State.adopt_freeCount (s : State) : s.adopt.freeCount = s.freeCount := rfl
@[simp] theorem State.adopt_params (s : State) : s.adopt.params = s.params := rfl

/-! ### The stop honoured (rule R247) -/

@[simp] theorem State.honourStop_st (s : State) : s.honourStop.st = .stopped := rfl
@[simp] theorem State.honourStop_active (s : State) : s.honourStop.active = s.active := rfl
@[simp] theorem State.honourStop_pending (s : State) : s.honourStop.pending = s.pending := rfl
@[simp] theorem State.honourStop_stopReq (s : State) : s.honourStop.stopReq = false := rfl
@[simp] theorem State.honourStop_retryUsed (s : State) : s.honourStop.retryUsed = s.retryUsed := rfl
@[simp] theorem State.honourStop_fault (s : State) : s.honourStop.fault = s.fault := rfl
@[simp] theorem State.honourStop_cur (s : State) : s.honourStop.cur = s.cur := rfl
@[simp] theorem State.honourStop_ph (s : State) : s.honourStop.ph = .off := rfl
@[simp] theorem State.honourStop_shiftK (s : State) : s.honourStop.shiftK = s.shiftK := rfl
@[simp] theorem State.honourStop_dreg (s : State) : s.honourStop.dreg = s.dreg := rfl
@[simp] theorem State.honourStop_sr (s : State) : s.honourStop.sr = s.sr := rfl
@[simp] theorem State.honourStop_cfg (s : State) : s.honourStop.cfg = s.cfg := rfl
@[simp] theorem State.honourStop_act (s : State) : s.honourStop.act = s.act := rfl
@[simp] theorem State.honourStop_oobCount (s : State) : s.honourStop.oobCount = s.oobCount := rfl
@[simp] theorem State.honourStop_faultCount (s : State) : s.honourStop.faultCount = s.faultCount := rfl
@[simp] theorem State.honourStop_faultInfo (s : State) : s.honourStop.faultInfo = s.faultInfo := rfl
@[simp] theorem State.honourStop_lut (s : State) : s.honourStop.lut = s.lut := rfl
@[simp] theorem State.honourStop_desc (s : State) : s.honourStop.desc = s.desc := rfl
@[simp] theorem State.honourStop_bufA (s : State) : s.honourStop.bufA = s.bufA := rfl
@[simp] theorem State.honourStop_bufB (s : State) : s.honourStop.bufB = s.bufB := rfl
@[simp] theorem State.honourStop_pins (s : State) : s.honourStop.pins = s.pins := rfl
@[simp] theorem State.honourStop_cmd (s : State) : s.honourStop.cmd = s.cmd := rfl
@[simp] theorem State.honourStop_rspReg (s : State) : s.honourStop.rspReg = responseWord statusOk 0 := rfl
@[simp] theorem State.honourStop_rspValid (s : State) : s.honourStop.rspValid = true := rfl
@[simp] theorem State.honourStop_observed (s : State) : s.honourStop.observed = s.observed ++ [.rsp statusOk 0] := rfl
@[simp] theorem State.honourStop_wave (s : State) : s.honourStop.wave = s.wave := rfl
@[simp] theorem State.honourStop_turns (s : State) : s.honourStop.turns = s.turns := rfl
@[simp] theorem State.honourStop_freeCount (s : State) : s.honourStop.freeCount = s.freeCount := rfl
@[simp] theorem State.honourStop_params (s : State) : s.honourStop.params = s.params := rfl

/-! ### The build of `INIT` (rule R243) -/

@[simp] theorem State.build_st (s : State) : s.build.st = .ready := rfl
@[simp] theorem State.build_active (s : State) : s.build.active = .A := rfl
@[simp] theorem State.build_pending (s : State) : s.build.pending = false := rfl
@[simp] theorem State.build_stopReq (s : State) : s.build.stopReq = false := rfl
@[simp] theorem State.build_retryUsed (s : State) : s.build.retryUsed = false := rfl
@[simp] theorem State.build_fault (s : State) : s.build.fault = false := rfl
@[simp] theorem State.build_cur (s : State) : s.build.cur = 0 := rfl
@[simp] theorem State.build_ph (s : State) : s.build.ph = .off := rfl
@[simp] theorem State.build_shiftK (s : State) : s.build.shiftK = 0 := rfl
@[simp] theorem State.build_dreg (s : State) : s.build.dreg = s.dreg := rfl
@[simp] theorem State.build_sr (s : State) : s.build.sr = s.sr := rfl
@[simp] theorem State.build_cfg (s : State) : s.build.cfg = s.cfg := rfl
@[simp] theorem State.build_act (s : State) : s.build.act = s.cfg := rfl
@[simp] theorem State.build_oobCount (s : State) : s.build.oobCount = 0 := rfl
@[simp] theorem State.build_faultCount (s : State) : s.build.faultCount = 0 := rfl
@[simp] theorem State.build_faultInfo (s : State) : s.build.faultInfo = 0 := rfl
@[simp] theorem State.build_lut (s : State) : s.build.lut = buildTable s.cfg := rfl
@[simp] theorem State.build_desc (s : State) : s.build.desc = buildRing s.cfg s.desc := rfl
@[simp] theorem State.build_bufA (s : State) : s.build.bufA = s.bufA.zeroBelow s.cfg.bufWords := rfl
@[simp] theorem State.build_bufB (s : State) : s.build.bufB = s.bufB.zeroBelow s.cfg.bufWords := rfl
@[simp] theorem State.build_pins (s : State) : s.build.pins = s.pins := rfl
@[simp] theorem State.build_cmd (s : State) : s.build.cmd = s.cmd := rfl
@[simp] theorem State.build_rspReg (s : State) : s.build.rspReg = s.rspReg := rfl
@[simp] theorem State.build_rspValid (s : State) : s.build.rspValid = s.rspValid := rfl
@[simp] theorem State.build_observed (s : State) : s.build.observed = s.observed := rfl
@[simp] theorem State.build_wave (s : State) : s.build.wave = s.wave := rfl
@[simp] theorem State.build_turns (s : State) : s.build.turns = s.turns := rfl
@[simp] theorem State.build_freeCount (s : State) : s.build.freeCount = s.freeCount := rfl
@[simp] theorem State.build_params (s : State) : s.build.params = s.params := rfl

/-! ### The transfer of one word (rule R214) -/

@[simp] theorem State.shiftOne_st (s : State) : s.shiftOne.st = s.st := rfl
@[simp] theorem State.shiftOne_active (s : State) : s.shiftOne.active = s.active := rfl
@[simp] theorem State.shiftOne_pending (s : State) : s.shiftOne.pending = s.pending := rfl
@[simp] theorem State.shiftOne_stopReq (s : State) : s.shiftOne.stopReq = s.stopReq := rfl
@[simp] theorem State.shiftOne_retryUsed (s : State) : s.shiftOne.retryUsed = s.retryUsed := rfl
@[simp] theorem State.shiftOne_fault (s : State) : s.shiftOne.fault = s.fault := rfl
@[simp] theorem State.shiftOne_cur (s : State) : s.shiftOne.cur = s.cur := rfl
@[simp] theorem State.shiftOne_ph (s : State) :
    s.shiftOne.ph = if s.shiftK + 1 = s.dreg.len then .latch else .shift := rfl
@[simp] theorem State.shiftOne_shiftK (s : State) : s.shiftOne.shiftK = s.shiftK + 1 := rfl
@[simp] theorem State.shiftOne_dreg (s : State) : s.shiftOne.dreg = s.dreg := rfl
@[simp] theorem State.shiftOne_sr (s : State) : s.shiftOne.sr = s.sr.writeWord s.shiftK.toNat s.shiftWord := rfl
@[simp] theorem State.shiftOne_cfg (s : State) : s.shiftOne.cfg = s.cfg := rfl
@[simp] theorem State.shiftOne_act (s : State) : s.shiftOne.act = s.act := rfl
@[simp] theorem State.shiftOne_oobCount (s : State) : s.shiftOne.oobCount = s.oobCount := rfl
@[simp] theorem State.shiftOne_faultCount (s : State) : s.shiftOne.faultCount = s.faultCount := rfl
@[simp] theorem State.shiftOne_faultInfo (s : State) : s.shiftOne.faultInfo = s.faultInfo := rfl
@[simp] theorem State.shiftOne_lut (s : State) : s.shiftOne.lut = s.lut := rfl
@[simp] theorem State.shiftOne_desc (s : State) : s.shiftOne.desc = s.desc := rfl
@[simp] theorem State.shiftOne_bufA (s : State) : s.shiftOne.bufA = s.bufA := rfl
@[simp] theorem State.shiftOne_bufB (s : State) : s.shiftOne.bufB = s.bufB := rfl
@[simp] theorem State.shiftOne_pins (s : State) :
    s.shiftOne.pins = { s.pins with data := if s.shiftK + 1 = s.dreg.len then 0 else s.shiftWord, clkOut := false } := rfl
@[simp] theorem State.shiftOne_cmd (s : State) : s.shiftOne.cmd = s.cmd := rfl
@[simp] theorem State.shiftOne_rspReg (s : State) : s.shiftOne.rspReg = s.rspReg := rfl
@[simp] theorem State.shiftOne_rspValid (s : State) : s.shiftOne.rspValid = s.rspValid := rfl
@[simp] theorem State.shiftOne_observed (s : State) : s.shiftOne.observed = s.observed := rfl
@[simp] theorem State.shiftOne_wave (s : State) : s.shiftOne.wave = s.wave ++ [.shiftClock s.shiftWord] := rfl
@[simp] theorem State.shiftOne_turns (s : State) : s.shiftOne.turns = s.turns := rfl
@[simp] theorem State.shiftOne_freeCount (s : State) : s.shiftOne.freeCount = s.freeCount := rfl
@[simp] theorem State.shiftOne_params (s : State) : s.shiftOne.params = s.params := rfl

/-! ### Replacing a buffer (rule R39): only that buffer changes -/

@[simp] theorem State.withBuf_st (s : State) (k : BufId) (m : Memory) : (s.withBuf k m).st = s.st := by
  cases k <;> rfl
@[simp] theorem State.withBuf_active (s : State) (k : BufId) (m : Memory) : (s.withBuf k m).active = s.active := by
  cases k <;> rfl
@[simp] theorem State.withBuf_pending (s : State) (k : BufId) (m : Memory) : (s.withBuf k m).pending = s.pending := by
  cases k <;> rfl
@[simp] theorem State.withBuf_stopReq (s : State) (k : BufId) (m : Memory) : (s.withBuf k m).stopReq = s.stopReq := by
  cases k <;> rfl
@[simp] theorem State.withBuf_retryUsed (s : State) (k : BufId) (m : Memory) : (s.withBuf k m).retryUsed = s.retryUsed := by
  cases k <;> rfl
@[simp] theorem State.withBuf_fault (s : State) (k : BufId) (m : Memory) : (s.withBuf k m).fault = s.fault := by
  cases k <;> rfl
@[simp] theorem State.withBuf_cur (s : State) (k : BufId) (m : Memory) : (s.withBuf k m).cur = s.cur := by
  cases k <;> rfl
@[simp] theorem State.withBuf_ph (s : State) (k : BufId) (m : Memory) : (s.withBuf k m).ph = s.ph := by
  cases k <;> rfl
@[simp] theorem State.withBuf_shiftK (s : State) (k : BufId) (m : Memory) : (s.withBuf k m).shiftK = s.shiftK := by
  cases k <;> rfl
@[simp] theorem State.withBuf_dreg (s : State) (k : BufId) (m : Memory) : (s.withBuf k m).dreg = s.dreg := by
  cases k <;> rfl
@[simp] theorem State.withBuf_sr (s : State) (k : BufId) (m : Memory) : (s.withBuf k m).sr = s.sr := by
  cases k <;> rfl
@[simp] theorem State.withBuf_cfg (s : State) (k : BufId) (m : Memory) : (s.withBuf k m).cfg = s.cfg := by
  cases k <;> rfl
@[simp] theorem State.withBuf_act (s : State) (k : BufId) (m : Memory) : (s.withBuf k m).act = s.act := by
  cases k <;> rfl
@[simp] theorem State.withBuf_oobCount (s : State) (k : BufId) (m : Memory) : (s.withBuf k m).oobCount = s.oobCount := by
  cases k <;> rfl
@[simp] theorem State.withBuf_faultCount (s : State) (k : BufId) (m : Memory) : (s.withBuf k m).faultCount = s.faultCount := by
  cases k <;> rfl
@[simp] theorem State.withBuf_faultInfo (s : State) (k : BufId) (m : Memory) : (s.withBuf k m).faultInfo = s.faultInfo := by
  cases k <;> rfl
@[simp] theorem State.withBuf_lut (s : State) (k : BufId) (m : Memory) : (s.withBuf k m).lut = s.lut := by
  cases k <;> rfl
@[simp] theorem State.withBuf_desc (s : State) (k : BufId) (m : Memory) : (s.withBuf k m).desc = s.desc := by
  cases k <;> rfl
@[simp] theorem State.withBuf_pins (s : State) (k : BufId) (m : Memory) : (s.withBuf k m).pins = s.pins := by
  cases k <;> rfl
@[simp] theorem State.withBuf_cmd (s : State) (k : BufId) (m : Memory) : (s.withBuf k m).cmd = s.cmd := by
  cases k <;> rfl
@[simp] theorem State.withBuf_rspReg (s : State) (k : BufId) (m : Memory) : (s.withBuf k m).rspReg = s.rspReg := by
  cases k <;> rfl
@[simp] theorem State.withBuf_rspValid (s : State) (k : BufId) (m : Memory) : (s.withBuf k m).rspValid = s.rspValid := by
  cases k <;> rfl
@[simp] theorem State.withBuf_observed (s : State) (k : BufId) (m : Memory) : (s.withBuf k m).observed = s.observed := by
  cases k <;> rfl
@[simp] theorem State.withBuf_wave (s : State) (k : BufId) (m : Memory) : (s.withBuf k m).wave = s.wave := by
  cases k <;> rfl
@[simp] theorem State.withBuf_turns (s : State) (k : BufId) (m : Memory) : (s.withBuf k m).turns = s.turns := by
  cases k <;> rfl
@[simp] theorem State.withBuf_freeCount (s : State) (k : BufId) (m : Memory) : (s.withBuf k m).freeCount = s.freeCount := by
  cases k <;> rfl
@[simp] theorem State.withBuf_params (s : State) (k : BufId) (m : Memory) : (s.withBuf k m).params = s.params := by
  cases k <;> rfl
@[simp] theorem State.buf_withBuf (s : State) (k : BufId) (m : Memory) : (s.withBuf k m).buf k = m := by
  cases k <;> rfl
@[simp] theorem State.buf_withBuf_other (s : State) (k : BufId) (m : Memory) :
    (s.withBuf k m).buf k.other = s.buf k.other := by
  cases k <;> rfl

/-! ### The buffers under the updates that do not touch them -/

@[simp] theorem State.emitRsp_buf (s : State) (a : BitVec 8) (d : Reg32) (k : BufId) : (s.emitRsp a d).buf k = s.buf k := by cases k <;> rfl
@[simp] theorem State.restart_buf (s : State) (k : BufId) : s.restart.buf k = s.buf k := by cases k <;> rfl
@[simp] theorem State.startChain_buf (s : State) (k : BufId) : s.startChain.buf k = s.buf k := by cases k <;> rfl
@[simp] theorem State.recordFault_buf (s : State) (k : BufId) : s.recordFault.buf k = s.buf k := by cases k <;> rfl
@[simp] theorem State.adopt_buf (s : State) (k : BufId) : s.adopt.buf k = s.buf k := by cases k <;> rfl
@[simp] theorem State.honourStop_buf (s : State) (k : BufId) : s.honourStop.buf k = s.buf k := by cases k <;> rfl
@[simp] theorem State.shiftOne_buf (s : State) (k : BufId) : s.shiftOne.buf k = s.buf k := by cases k <;> rfl

/-! ### The writable buffer is not the active one (rule R22) -/

@[simp] theorem BufId.other_other (k : BufId) : k.other.other = k := by cases k <;> rfl
@[simp] theorem BufId.other_ne (k : BufId) : k.other ≠ k := by cases k <;> decide
@[simp] theorem BufId.ne_other (k : BufId) : k ≠ k.other := by cases k <;> decide

/-- Writing the writable buffer leaves the active one as it was (rule R63). -/
@[simp] theorem State.withBuf_writable_active (s : State) (m : Memory) :
    (s.withBuf s.writable m).buf s.active = s.buf s.active := by
  have h := s.buf_withBuf_other s.active.other m
  rwa [BufId.other_other] at h

end Sys2Proof.Machine
end

