-- ==== Sys2Proof/Laws/Ops.lean ====
section
/-! SUPPORT. One lemma per shared operation of Machine/Ops.lean and Machine/Operands.lean that says once everything it can
do. -/

namespace Sys2Proof.Machine

/-! ### The guard of every command (rule R95) -/

/-- A command answers in exactly three ways: illegal operands, a state that refuses it, or its own rule. -/
theorem State.command_cases (s : State) (i : Instr) (own : Host.Outcome State Fault Refusal) :
    (restricted i ≠ none ∧ s.command i own = .next s.illegal) ∨
    (restricted i = none ∧ accepts i s.st = false ∧ s.command i own = .next s.stateError) ∨
    (restricted i = none ∧ accepts i s.st = true ∧ s.command i own = own) := by
  unfold State.command
  split
  · rename_i e he
    exact .inl ⟨by simp [he], rfl⟩
  · rename_i he
    cases ha : accepts i s.st
    · exact .inr (.inl ⟨he, rfl, by simp⟩)
    · exact .inr (.inr ⟨he, rfl, by simp⟩)

/-- A command whose operands are legal and that the engine state accepts follows its own rule. -/
theorem State.command_own {s : State} {i : Instr} (own : Host.Outcome State Fault Refusal) (hr : restricted i = none)
    (ha : accepts i s.st = true) : s.command i own = own := by
  simp [State.command, hr, ha]

/-- A command that answers a next state changed nothing but the response, or its own rule answered that state. -/
theorem State.command_next {s t : State} {i : Instr} {own : Host.Outcome State Fault Refusal}
    (h : s.command i own = .next t) :
    (∃ a d, t = s.emitRsp a d) ∨ (restricted i = none ∧ accepts i s.st = true ∧ own = .next t) := by
  rcases s.command_cases i own with ⟨-, h'⟩ | ⟨-, -, h'⟩ | ⟨hr, ha, h'⟩
  · rw [h'] at h; cases h; exact .inl ⟨_, _, rfl⟩
  · rw [h'] at h; cases h; exact .inl ⟨_, _, rfl⟩
  · rw [h'] at h; exact .inr ⟨hr, ha, h⟩

/-! ### Taking a SequencerFault (rules R275 to R278) -/

/-- Abandoning a pulse only adds to the waveform and draws a free value. -/
theorem State.abandonPulse_cases (s : State) :
    s.abandonPulse = s ∨
    (s.ph = .hold ∧ s.abandonPulse = { s with wave := s.wave ++ [.enable s.cutPeriods], freeCount := s.freeCount + 1 }) := by
  unfold State.abandonPulse
  split <;> simp_all

@[simp] theorem State.abandonPulse_st (s : State) : s.abandonPulse.st = s.st := by
  unfold State.abandonPulse; split <;> rfl
@[simp] theorem State.abandonPulse_active (s : State) : s.abandonPulse.active = s.active := by
  unfold State.abandonPulse; split <;> rfl
@[simp] theorem State.abandonPulse_pending (s : State) : s.abandonPulse.pending = s.pending := by
  unfold State.abandonPulse; split <;> rfl
@[simp] theorem State.abandonPulse_stopReq (s : State) : s.abandonPulse.stopReq = s.stopReq := by
  unfold State.abandonPulse; split <;> rfl
@[simp] theorem State.abandonPulse_retryUsed (s : State) : s.abandonPulse.retryUsed = s.retryUsed := by
  unfold State.abandonPulse; split <;> rfl
@[simp] theorem State.abandonPulse_fault (s : State) : s.abandonPulse.fault = s.fault := by
  unfold State.abandonPulse; split <;> rfl
@[simp] theorem State.abandonPulse_cur (s : State) : s.abandonPulse.cur = s.cur := by
  unfold State.abandonPulse; split <;> rfl
@[simp] theorem State.abandonPulse_ph (s : State) : s.abandonPulse.ph = s.ph := by
  unfold State.abandonPulse; split <;> rfl
@[simp] theorem State.abandonPulse_shiftK (s : State) : s.abandonPulse.shiftK = s.shiftK := by
  unfold State.abandonPulse; split <;> rfl
@[simp] theorem State.abandonPulse_dreg (s : State) : s.abandonPulse.dreg = s.dreg := by
  unfold State.abandonPulse; split <;> rfl
@[simp] theorem State.abandonPulse_sr (s : State) : s.abandonPulse.sr = s.sr := by
  unfold State.abandonPulse; split <;> rfl
@[simp] theorem State.abandonPulse_cfg (s : State) : s.abandonPulse.cfg = s.cfg := by
  unfold State.abandonPulse; split <;> rfl
@[simp] theorem State.abandonPulse_act (s : State) : s.abandonPulse.act = s.act := by
  unfold State.abandonPulse; split <;> rfl
@[simp] theorem State.abandonPulse_oobCount (s : State) : s.abandonPulse.oobCount = s.oobCount := by
  unfold State.abandonPulse; split <;> rfl
@[simp] theorem State.abandonPulse_faultCount (s : State) : s.abandonPulse.faultCount = s.faultCount := by
  unfold State.abandonPulse; split <;> rfl
@[simp] theorem State.abandonPulse_faultInfo (s : State) : s.abandonPulse.faultInfo = s.faultInfo := by
  unfold State.abandonPulse; split <;> rfl
@[simp] theorem State.abandonPulse_lut (s : State) : s.abandonPulse.lut = s.lut := by
  unfold State.abandonPulse; split <;> rfl
@[simp] theorem State.abandonPulse_desc (s : State) : s.abandonPulse.desc = s.desc := by
  unfold State.abandonPulse; split <;> rfl
@[simp] theorem State.abandonPulse_bufA (s : State) : s.abandonPulse.bufA = s.bufA := by
  unfold State.abandonPulse; split <;> rfl
@[simp] theorem State.abandonPulse_bufB (s : State) : s.abandonPulse.bufB = s.bufB := by
  unfold State.abandonPulse; split <;> rfl
@[simp] theorem State.abandonPulse_pins (s : State) : s.abandonPulse.pins = s.pins := by
  unfold State.abandonPulse; split <;> rfl
@[simp] theorem State.abandonPulse_cmd (s : State) : s.abandonPulse.cmd = s.cmd := by
  unfold State.abandonPulse; split <;> rfl
@[simp] theorem State.abandonPulse_rspReg (s : State) : s.abandonPulse.rspReg = s.rspReg := by
  unfold State.abandonPulse; split <;> rfl
@[simp] theorem State.abandonPulse_rspValid (s : State) : s.abandonPulse.rspValid = s.rspValid := by
  unfold State.abandonPulse; split <;> rfl
@[simp] theorem State.abandonPulse_observed (s : State) : s.abandonPulse.observed = s.observed := by
  unfold State.abandonPulse; split <;> rfl
@[simp] theorem State.abandonPulse_turns (s : State) : s.abandonPulse.turns = s.turns := by
  unfold State.abandonPulse; split <;> rfl
@[simp] theorem State.abandonPulse_params (s : State) : s.abandonPulse.params = s.params := by
  unfold State.abandonPulse; split <;> rfl
@[simp] theorem State.abandonPulse_buf (s : State) (k : BufId) : s.abandonPulse.buf k = s.buf k := by
  cases k <;> simp [State.buf]

/-- The enable of a cut pulse lasted no longer than its hold (rule R276). -/
theorem State.cutPeriods_le (s : State) : s.cutPeriods.toNat ≤ s.dreg.hold.toNat := by
  have h := Nat.mod_lt (Config.freeHoldCut s.freeCount) (Nat.succ_pos s.dreg.hold.toNat)
  have h2 := s.dreg.hold.isLt
  simp only [State.cutPeriods, BitVec.toNat_ofNat]
  rw [Nat.mod_eq_of_lt] <;> simp only [Nat.succ_eq_add_one] at h <;> omega

/-- An escalation with no `STOP` waiting, and one that answers it (rule R278). -/
theorem State.escalate_cases (s : State) :
    (s.stopReq = false ∧ s.escalate = { s with fault := true, st := .stopped, ph := .off }) ∨
    (s.stopReq = true ∧ s.escalate =
      { s with fault := true, st := .stopped, ph := .off, stopReq := false }.emitRsp ErrorKind.sequencerFault.code 0) := by
  cases h : s.stopReq
  · exact .inl ⟨rfl, by simp [State.escalate, h]⟩
  · exact .inr ⟨rfl, by simp [State.escalate, h]⟩

/-- The three things a `TIMEOUT` does: nothing, a restart, an escalation. -/
theorem State.timeout_cases (s : State) :
    (s.timeoutEnabled = false ∧ s.timeout = s) ∨
    (s.timeoutEnabled = true ∧ s.retryUsed = false ∧ s.timeout = s.abandonPulse.recordFault.restart) ∨
    (s.timeoutEnabled = true ∧ s.retryUsed = true ∧ s.timeout = s.abandonPulse.recordFault.escalate) := by
  cases he : s.timeoutEnabled
  · exact .inl ⟨rfl, by simp [State.timeout, he]⟩
  · cases hr : s.retryUsed
    · exact .inr (.inl ⟨rfl, rfl, by simp [State.timeout, State.takeFault, he, hr]⟩)
    · exact .inr (.inr ⟨rfl, rfl, by simp [State.timeout, State.takeFault, he, hr]⟩)

/-- When a timeout is enabled (rule R275). -/
theorem State.timeoutEnabled_iff (s : State) :
    s.timeoutEnabled = true ↔ s.st = .running ∧ s.ph.inFlight = true := by
  simp [State.timeoutEnabled]

/-! ### Operand forms -/

/-- The decoder's restrictions are the well-formedness of the command. -/
theorem restricted_eq_none_iff (i : Instr) : restricted i = none ↔ i.wellFormed = true := by
  cases i <;> simp [restricted, Instr.wellFormed, cfgIndex, readIndex]
  omega

/-- A legal index of `WRCFG` names a register. -/
theorem ConfigRegs.write_isSome {idx : BitVec 8} (h : idx.toNat ≤ 6) (c : ConfigRegs) (v : Reg32) :
    ∃ d, c.write idx v = some d := by
  have h' : idx.toNat < 7 := by omega
  unfold ConfigRegs.write
  interval_cases idx.toNat <;> exact ⟨_, rfl⟩

/-- A bank of seven has registers 0 to 6. -/
theorem ConfigRegs.read_isSome {n : Nat} (h : n ≤ 6) (c : ConfigRegs) : ∃ v, c.read n = some v := by
  unfold ConfigRegs.read
  interval_cases n <;> exact ⟨_, rfl⟩

/-- A readable index names a register (rule R36). -/
theorem State.readReg_isSome {idx : BitVec 8} (h : readIndex idx = true) (s : State) : ∃ v, s.readReg idx = some v := by
  simp only [readIndex, Bool.or_eq_true, Bool.and_eq_true, decide_eq_true_eq] at h
  unfold State.readReg
  rcases h with (h | ⟨h1, h2⟩) | ⟨h1, h2⟩
  · rw [if_pos (by omega)]; exact ConfigRegs.read_isSome h _
  · generalize idx.toNat = n at h1 h2 ⊢
    interval_cases n <;> exact ⟨_, rfl⟩
  · simp only [show ¬ idx.toNat < 16 by omega, show ¬ idx.toNat = 16 by omega, show ¬ idx.toNat = 17 by omega,
      show ¬ idx.toNat = 18 by omega, show ¬ idx.toNat = 19 by omega, show ¬ idx.toNat = 20 by omega,
      show ¬ idx.toNat < 24 by omega, if_false]
    exact ConfigRegs.read_isSome (by omega) _

/-- A channel operand other than 3 names the channel of its number (rule R16). -/
theorem channelOf_isSome {ch : BitVec 2} (h : ch ≠ 3) : ∃ c, channelOf ch = some c := by
  have all : ∀ ch : BitVec 2, ch ≠ 3 → (channelOf ch).isSome = true := by decide
  exact Option.isSome_iff_exists.1 (all ch h)

end Sys2Proof.Machine
end

