-- ==== Sys2Proof/Laws/Decode.lean ====
section
/-! SUPPORT. What the decoder can answer: an accepted word gives a well-formed command. -/

namespace Sys2Proof

/-- The decoder answers well-formed commands only (rule R95). -/
theorem decode_wellFormed {w : Word64} {i : Instr} (h : decode w = .ok i) : i.wellFormed = true := by
  unfold decode at h
  split at h
  · cases h
  · split at h
    · cases h
    · rename_i hr
      cases h
      exact (Machine.restricted_eq_none_iff _).1 hr

/-- A word whose row selects a command with legal operands decodes to it. -/
theorem decode_of_row {w : Word64} {i : Instr} (h : decodeRow w = .ok i) (hi : i.wellFormed = true) :
    decode w = .ok i := by
  simp [decode, h, (Machine.restricted_eq_none_iff i).2 hi]

/-- A word's bytes carry the word back (rule R65). -/
theorem ofLittleEndian_littleEndian (n v : Nat) : ofLittleEndian (littleEndian n v) = v % 256 ^ n := by
  induction n generalizing v with
  | zero => simp [littleEndian, ofLittleEndian, Nat.mod_one]
  | succ n ih =>
    simp only [littleEndian, ofLittleEndian, ih, BitVec.toNat_ofNat]
    rw [show 256 ^ (n + 1) = 256 * 256 ^ n by ring, Nat.mod_mul]

@[simp] theorem length_littleEndian (n v : Nat) : (littleEndian n v).length = n := by
  induction n generalizing v with
  | zero => rfl
  | succ n ih => simp [littleEndian, ih]

/-- Byte `k` of a number carried least significant byte first (rule R65). -/
theorem getElem?_littleEndian {n k : Nat} (hk : k < n) (v : Nat) :
    (littleEndian n v)[k]? = some (BitVec.ofNat 8 (v / 256 ^ k)) := by
  induction n generalizing v k with
  | zero => omega
  | succ n ih =>
    cases k with
    | zero => simp [littleEndian]
    | succ k =>
      rw [littleEndian, List.getElem?_cons_succ, ih (by omega), Nat.div_div_eq_div_mul, pow_succ', Nat.mul_comm]

/-- Byte `k` of a word carried least significant byte first is the field of eight bits at `8 * k` (rules R14 and R65). -/
theorem getElem?_littleEndian_toNat {w n k : Nat} (hk : k < n) (v : BitVec w) :
    (littleEndian n v.toNat)[k]? = some (slice v (8 * k) 8) := by
  rw [getElem?_littleEndian hk]
  congr 1
  apply BitVec.eq_of_toNat_eq
  simp [slice, BitVec.extractLsb'_toNat, Nat.shiftRight_eq_div_pow, pow_mul]

/-- A word whose bytes are all carried is read back from them (rule R65). -/
theorem ofLittleEndian_toNat {w n : Nat} (h : 2 ^ w ≤ 256 ^ n) (v : BitVec w) :
    BitVec.ofNat w (ofLittleEndian (littleEndian n v.toNat)) = v := by
  rw [ofLittleEndian_littleEndian, Nat.mod_eq_of_lt (lt_of_lt_of_le v.isLt h), BitVec.ofNat_toNat, BitVec.setWidth_eq]

end Sys2Proof
end

