-- ==== Sys2Proof/Laws/Sequencer.lean ====
section
/-! SUPPORT. What each step of the background agent can do, said once (rules R187, R189, R214 to R216), and the entries of
the descriptor ring. -/

namespace Sys2Proof.Machine

/-! ### The ring -/

/-- The entry `INIT` leaves at index `d` (rule R243 B5). -/
theorem buildRing_get? (c : ConfigRegs) (old : Vector Descriptor Config.maxDescriptors) (d : Nat) :
    (buildRing c old)[d]? = (old[d]?).map fun r => if d < c.descriptors then descriptorFor c .A d else r := by
  simp [buildRing]

/-- The entry an adoption leaves at index `d`: only `src_buf` may change, and only below `n` (rule R166). -/
theorem repoint_get? (desc : Vector Descriptor Config.maxDescriptors) (n : Nat) (k : BufId) (d : Nat) :
    (repoint desc n k)[d]? = (desc[d]?).map fun r => if d < n then { r with srcBuf := k } else r := by
  simp [repoint]

/-- Re-pointing the record of descriptor `d` gives the record of descriptor `d` for the other buffer (rule R182). -/
@[simp] theorem descriptorFor_srcBuf (c : ConfigRegs) (k l : BufId) (d : Nat) :
    { descriptorFor c k d with srcBuf := l } = descriptorFor c l d := rfl

/-- The numbers in a record of a legal configuration are the naturals of rule R38, with no truncation (rule R183). -/
theorem descriptorFor_values {c : ConfigRegs} (hrows : c.rows.toNat ≤ 64) (hcols : c.columns.toNat ≤ 65535)
    (hdepth : c.depth.toNat ≤ 16) (k : BufId) {d : Nat} (hd : d < c.descriptors) :
    (descriptorFor c k d).srcOff.toNat = d * c.columns.toNat ∧ (descriptorFor c k d).len.toNat = c.columns.toNat ∧
    (descriptorFor c k d).next.toNat = (d + 1) % c.descriptors ∧ (descriptorFor c k d).row.toNat = d / c.planes ∧
    (descriptorFor c k d).plane.toNat = d % c.planes ∧ (descriptorFor c k d).hold.toNat = c.holdOf (d % c.planes) ∧
    c.descriptors ≤ 512 := by
  have hH : c.scanRows ≤ 32 := by unfold ConfigRegs.scanRows; omega
  have hN : c.planes ≤ 16 := hdepth
  have hD : c.descriptors ≤ 512 := by
    have := Nat.mul_le_mul hH hN
    simpa [ConfigRegs.descriptors] using this
  have hN0 : 0 < c.planes := by
    rcases Nat.eq_zero_or_pos c.planes with h | h
    · simp [ConfigRegs.descriptors, h] at hd
    · exact h
  have hoff : d * c.columns.toNat < 2 ^ 32 := by
    have := Nat.mul_le_mul (show d ≤ 511 by omega) hcols
    omega
  have hnext : (d + 1) % c.descriptors < 2 ^ 16 := by
    have := Nat.mod_lt (d + 1) (show c.descriptors > 0 by omega)
    omega
  have hrow : d / c.planes < 2 ^ 5 := by
    have : d / c.planes < c.scanRows := (Nat.div_lt_iff_lt_mul hN0).2 hd
    omega
  have hplane : d % c.planes < c.planes := Nat.mod_lt _ hN0
  have hhold : c.holdOf (d % c.planes) < 2 ^ 48 := by
    have h1 : 2 ^ (d % c.planes) ≤ 2 ^ 15 := Nat.pow_le_pow_right (by decide) (by omega)
    have h2 := c.baseTick.isLt
    calc c.holdOf (d % c.planes) = c.baseTick.toNat * 2 ^ (d % c.planes) := rfl
      _ ≤ c.baseTick.toNat * 2 ^ 15 := Nat.mul_le_mul_left _ h1
      _ < 2 ^ 48 := by omega
  refine ⟨?_, ?_, ?_, ?_, ?_, ?_, hD⟩
  · simpa [descriptorFor] using hoff
  · simp only [descriptorFor, BitVec.toNat_ofNat]; omega
  · simpa [descriptorFor] using hnext
  · simpa [descriptorFor] using hrow
  · simp only [descriptorFor, BitVec.toNat_ofNat]; omega
  · simpa [descriptorFor] using hhold

/-! ### The steps -/

/-- Fetching loads the descriptor `CUR` names, or finds none. -/
theorem State.loadDescriptor_cases (s : State) :
    (∃ d, s.desc[s.cur.toNat]? = some d ∧
      s.loadDescriptor = .next { s with dreg := d, shiftK := 0, ph := .shift }) ∨
    (s.desc[s.cur.toNat]? = none ∧ s.loadDescriptor = .fault .noSuchDescriptor) := by
  unfold State.loadDescriptor
  split
  · rename_i d hd; exact .inl ⟨d, hd, rfl⟩
  · rename_i hd; exact .inr ⟨hd, rfl⟩

/-- The boundary work is an adoption or nothing (rule R166). -/
theorem State.boundary_cases (s : State) :
    (s.cur = 0 ∧ s.pending = true ∧ s.boundary = s.adopt) ∨ (¬ (s.cur = 0 ∧ s.pending = true) ∧ s.boundary = s) := by
  unfold State.boundary
  split
  · rename_i h; exact .inl ⟨h.1, h.2, rfl⟩
  · rename_i h; exact .inr ⟨h, rfl⟩

/-- Everything the background agent can do in one step (rule R11), given that it answers a next state. -/
theorem background_next {s t : State} (h : background s = .next t) :
    (s.ph = .off ∧ t = s) ∨
    (s.ph = .fetch ∧ s.st ≠ .running ∧ t = s) ∨
    (s.ph = .fetch ∧ s.st = .running ∧ s.stopReq = true ∧ t = s.honourStop) ∨
    (s.ph = .fetch ∧ s.st = .running ∧ s.stopReq = false ∧ s.boundary.loadDescriptor = .next t) ∨
    (s.ph = .shift ∧ s.act.inBufferSpace s.shiftAddr = true ∧ t = s.shiftOne) ∨
    (s.ph = .latch ∧ bgLatch s = .next t) ∨
    (s.ph = .hold ∧ bgHold s = .next t) ∨
    (s.ph = .done ∧ bgDone s = .next t) := by
  unfold background at h
  split at h <;> rename_i hp
  · cases h; exact .inl ⟨hp, rfl⟩
  · split at h <;> rename_i hst
    · unfold bgFetch at h
      split at h <;> rename_i hs
      · cases h; exact .inr (.inr (.inl ⟨hp, hst, hs, rfl⟩))
      · exact .inr (.inr (.inr (.inl ⟨hp, hst, by simpa using hs, h⟩)))
    · cases h; exact .inr (.inl ⟨hp, hst, rfl⟩)
  · unfold bgShift at h
    split at h <;> rename_i hs
    · cases h; exact .inr (.inr (.inr (.inr (.inl ⟨hp, hs, rfl⟩))))
    · cases h
  · exact .inr (.inr (.inr (.inr (.inr (.inl ⟨hp, h⟩)))))
  · exact .inr (.inr (.inr (.inr (.inr (.inr (.inl ⟨hp, h⟩))))))
  · exact .inr (.inr (.inr (.inr (.inr (.inr (.inr ⟨hp, h⟩))))))

end Sys2Proof.Machine
end

