-- ==== Sys2Proof/Laws/Commands.lean ====
section
/-! SUPPORT. What a command, a turn and a step can do, said once. -/

namespace Sys2Proof.Machine

/-- What an accepted command does to the state, before or beside its response: every command answers one of these. -/
inductive CommandEffect (s : State) : State → Prop where
  /-- A response and nothing else: an error, or a pure read. -/
  | answer (a : BitVec 8) (d : Reg32) : CommandEffect s (s.emitRsp a d)
  | config (c : ConfigRegs) (hst : s.st ≠ .running) : CommandEffect s ({ s with cfg := c }.emitRsp statusOk 0)
  | built (hst : s.st ≠ .running) (h : s.cfg.failedCheck s.params = none) : CommandEffect s (s.build.emitRsp statusOk 0)
  | counted (hst : s.st ≠ .uninitialized) :
      CommandEffect s ({ s with oobCount := saturatingInc s.oobCount }.emitRsp ErrorKind.outOfBounds.code 0)
  | pixel (x y : BitVec 16) (v : Intensity) (hst : s.st ≠ .uninitialized) (hb : s.act.inBounds x y = true) :
      CommandEffect s ((s.setPixel x y v).emitRsp statusOk 0)
  | cleared (hst : s.st ≠ .uninitialized) : CommandEffect s (s.clearWritable.emitRsp statusOk 0)
  | committed (hst : s.st ≠ .uninitialized) : CommandEffect s ({ s with pending := true }.emitRsp statusOk 0)
  | started (hst : s.st = .ready ∨ s.st = .stopped) : CommandEffect s (s.startChain.emitRsp statusOk 0)
  | stopping (hst : s.st = .running) : CommandEffect s { s with stopReq := true }

/-- A command that answers a next state has one of the effects above. -/
theorem exec_next {i : Instr} {s t : State} (h : exec i s = .next t) : CommandEffect s t := by
  cases i with
  | wrcfg idx v =>
    rcases State.command_next (i := .wrcfg idx v) h with ⟨a, d, rfl⟩ | ⟨hr, ha, h⟩
    · exact .answer a d
    · cases h
      obtain ⟨c, hc⟩ := ConfigRegs.write_isSome (c := s.cfg) (v := v)
        (by simpa [restricted] using hr : idx.toNat ≤ 6)
      simp only [writeConfig, hc, State.respond_eq]
      exact .config c (by rintro hst; simp [hst, accepts] at ha)
  | rdreg idx =>
    rcases State.command_next (i := .rdreg idx) h with ⟨a, d, rfl⟩ | ⟨-, -, h⟩
    · exact .answer a d
    · cases h
      unfold answerRegister
      split <;> exact .answer _ _
  | init =>
    rcases State.command_next (i := .init) h with ⟨a, d, rfl⟩ | ⟨-, ha, h⟩
    · exact .answer a d
    · cases h
      unfold initialise
      split
      · exact .answer _ _
      · rename_i hc
        exact .built (by rintro hst; simp [hst, accepts] at ha) hc
  | lookup ch v =>
    rcases State.command_next (i := .lookup ch v) h with ⟨a, d, rfl⟩ | ⟨-, -, h⟩
    · exact .answer a d
    · cases h
      unfold lookupAnswer
      split <;> exact .answer _ _
  | setpx x y r g b =>
    rcases State.command_next (i := .setpx x y r g b) h with ⟨a, d, rfl⟩ | ⟨-, ha, h⟩
    · exact .answer a d
    · unfold setpxOwn at h
      split at h <;> rename_i hb
      · split at h
        · cases h
          exact .pixel x y _ (by rintro hst; simp [hst, accepts] at ha) hb
        · cases h
      · cases h; exact .counted (by rintro hst; simp [hst, accepts] at ha)
  | clear =>
    rcases State.command_next (i := .clear) h with ⟨a, d, rfl⟩ | ⟨-, ha, h⟩
    · exact .answer a d
    · cases h; exact .cleared (by rintro hst; simp [hst, accepts] at ha)
  | commit =>
    rcases State.command_next (i := .commit) h with ⟨a, d, rfl⟩ | ⟨-, ha, h⟩
    · exact .answer a d
    · cases h; exact .committed (by rintro hst; simp [hst, accepts] at ha)
  | start =>
    rcases State.command_next (i := .start) h with ⟨a, d, rfl⟩ | ⟨-, ha, h⟩
    · exact .answer a d
    · cases h
      refine .started ?_
      cases hst : s.st <;> simp_all [accepts]
  | stop =>
    rcases State.command_next (i := .stop) h with ⟨a, d, rfl⟩ | ⟨-, ha, h⟩
    · exact .answer a d
    · cases h
      refine .stopping ?_
      cases hst : s.st <;> simp_all [accepts]

/-- Everything one turn can do (rules R9 to R11, R90 and R310), given that it answers a next state. -/
theorem takeTurn_next {tn : Turn} {s t : State} (h : takeTurn tn s = .next t) :
    (∃ w, tn = .command w ∧ s.stopReq = true ∧ t = s) ∨
    (∃ w, tn = .command w ∧ s.stopReq = false ∧ CommandEffect { s with cmd := w } t) ∨
    (tn = .background ∧ background s = .next t) ∨
    (tn = .timeout ∧ t = s.timeout) ∨
    (tn = .reset ∧ t = s.applyReset) := by
  cases tn with
  | command w =>
    simp only [takeTurn, offerCommand, State.cmdReady] at h
    cases hs : s.stopReq
    · simp only [hs, Bool.not_false, if_true, executeWord] at h
      refine .inr (.inl ⟨w, rfl, rfl, ?_⟩)
      split at h
      · exact exec_next h
      · cases h; exact .answer _ _
    · simp only [hs, Bool.not_true] at h
      cases h; exact .inl ⟨w, rfl, rfl, rfl⟩
  | background => exact .inr (.inr (.inl ⟨rfl, h⟩))
  | timeout => cases h; exact .inr (.inr (.inr (.inl ⟨rfl, rfl⟩)))
  | reset => cases h; exact .inr (.inr (.inr (.inr ⟨rfl, rfl⟩)))

/-- What `rst` leaves (rule R310): the reset state with the model's own fields kept, and, for a pulse cut in its hold, a
part of the hold added to the waveform. -/
theorem State.applyReset_cases (s : State) :
    ∃ wave n,
      s.applyReset = { State.reset with
        observed := s.observed, wave := wave, turns := s.turns, freeCount := n, params := s.params } ∧
      (s.ph ≠ .hold → wave = s.wave) ∧
      (s.ph = .hold → ∃ p : BitVec 48, wave = s.wave ++ [.enable p] ∧ p.toNat ≤ s.dreg.hold.toNat) := by
  refine ⟨s.abandonPulse.wave, s.abandonPulse.freeCount, rfl, fun h => ?_, fun h => ⟨s.cutPeriods, ?_, s.cutPeriods_le⟩⟩
  · rcases s.abandonPulse_cases with h' | ⟨h', -⟩
    · rw [h']
    · exact absurd h' h
  · simp [State.abandonPulse, h]

/-- A state whose next turn is prescribed takes that turn. -/
theorem step_of_turns {s : State} {tn : Turn} {rest : List Turn} (h : s.turns = tn :: rest) :
    step s = takeTurn tn { s with turns := rest, rspValid := false } := by
  simp [step, State.nextTurn, h]

/-- The state a turn is taken in differs from the state before it only in the model's turn fields and `rsp_valid`. -/
theorem State.nextTurn_state (s : State) :
    ∃ ts n, s.nextTurn.2 = { s with turns := ts, freeCount := n, rspValid := false } := by
  unfold State.nextTurn
  split
  · exact ⟨_, _, rfl⟩
  · rename_i h; exact ⟨s.turns, _, rfl⟩

/-- No command is refused: `exec` answers a next state, or the fault of an address outside the buffer space. -/
theorem exec_ne_refused (i : Instr) (s : State) (r : Refusal) : exec i s ≠ .refused r := by
  intro h
  have key : ∀ (j : Instr) (own : Host.Outcome State Fault Refusal), own ≠ .refused r → s.command j own ≠ .refused r := by
    intro j own ho hc
    rcases s.command_cases j own with ⟨-, h'⟩ | ⟨-, -, h'⟩ | ⟨-, -, h'⟩ <;> rw [h'] at hc
    · cases hc
    · cases hc
    · exact ho hc
  cases i with
  | wrcfg idx v => exact key (.wrcfg idx v) _ (by simp) h
  | rdreg idx => exact key (.rdreg idx) _ (by simp) h
  | init => exact key .init _ (by simp) h
  | lookup ch v => exact key (.lookup ch v) _ (by simp) h
  | setpx x y r g b =>
    refine key (.setpx x y r g b) _ ?_ h
    unfold setpxOwn
    split
    · split <;> simp
    · simp
  | clear => exact key .clear _ (by simp) h
  | commit => exact key .commit _ (by simp) h
  | start => exact key .start _ (by simp) h
  | stop => exact key .stop _ (by simp) h

end Sys2Proof.Machine
end

