-- ==== Sys2Proof/Laws/Geometry.lean ====
section
/-! SUPPORT. The checks of `INIT` and the buffer layout as arithmetic: which configurations pass, how large a legal one is,
and that word addresses stay in the buffer space and never collide (rules R61, R62, R70 and R243). -/

namespace Sys2Proof.Machine

/-- `INIT` finds no failing check exactly when the configuration is legal (rules R6 and R243). -/
theorem ConfigRegs.failedCheck_eq_none_iff {c : ConfigRegs} {p : Params} : c.failedCheck p = none ↔ c.Legal p := by
  constructor
  · intro h
    unfold ConfigRegs.failedCheck at h
    repeat' (split at h; · cases h)
    rename_i h1 h2 h3 h4 h5 h6
    simp only [ConfigRegs.badRows, ConfigRegs.badColumns, ConfigRegs.badDepth, badGamma, ConfigRegs.overBudget,
      Config.maxRows, Config.maxBitDepth, Bool.or_eq_true, decide_eq_true_eq, not_or] at h1 h2 h3 h4 h5 h6
    unfold ConfigRegs.Legal
    refine ⟨⟨?_, ?_, ?_⟩, ⟨?_, ?_⟩, ⟨?_, ?_⟩, ⟨?_, ?_⟩, ⟨?_, ?_⟩, ⟨?_, ?_⟩, ?_, ?_⟩ <;> omega
  · rintro ⟨⟨a1, a2, a3⟩, ⟨b1, b2⟩, ⟨c1, c2⟩, ⟨d1, d2⟩, ⟨e1, e2⟩, ⟨f1, f2⟩, g, k⟩
    unfold ConfigRegs.failedCheck
    rw [if_neg, if_neg, if_neg, if_neg, if_neg, if_neg] <;>
      simp only [ConfigRegs.badRows, ConfigRegs.badColumns, ConfigRegs.badDepth, badGamma, ConfigRegs.overBudget,
        Config.maxRows, Config.maxBitDepth, Bool.or_eq_true, decide_eq_true_eq, not_or] <;> omega

/-- The sizes of a legal configuration under legal parameters (rules R6 and R7). -/
theorem ConfigRegs.Legal.bounds {c : ConfigRegs} {p : Params} (h : c.Legal p) (hp : p.Legal) :
    c.rows.toNat ≤ 64 ∧ c.columns.toNat ≤ 65535 ∧ c.depth.toNat ≤ 16 :=
  ⟨h.1.2.1, h.2.1.2.trans hp.2.1, h.2.2.1.2⟩

theorem ConfigRegs.Legal.scanRows_pos {c : ConfigRegs} {p : Params} (h : c.Legal p) : 0 < c.scanRows := by
  have := h.1.1
  unfold ConfigRegs.scanRows; omega

/-- A legal ring has at least one descriptor. -/
theorem ConfigRegs.Legal.descriptors_pos {c : ConfigRegs} {p : Params} (h : c.Legal p) : 0 < c.descriptors :=
  Nat.mul_pos h.scanRows_pos h.2.2.1.1

theorem ConfigRegs.inBufferSpace_iff {c : ConfigRegs} {a : Nat} : c.inBufferSpace a = true ↔ a < c.bufWords := by
  simp [ConfigRegs.inBufferSpace]

/-- The word addresses of a pixel lie in the buffer space (rules R60 and R70). -/
theorem ConfigRegs.wordAddr_lt {c : ConfigRegs} {x y b : Nat} (hx : x < c.columns.toNat) (hH : 0 < c.scanRows)
    (hb : b < c.planes) : c.wordAddr (c.scanRowOf y) b x < c.bufWords := by
  unfold ConfigRegs.wordAddr ConfigRegs.bufWords ConfigRegs.scanRowOf
  have hr : y % c.scanRows < c.scanRows := Nat.mod_lt _ hH
  generalize y % c.scanRows = r at hr
  have h1 : r * c.planes + b + 1 ≤ c.scanRows * c.planes := by
    calc r * c.planes + b + 1 ≤ (r + 1) * c.planes := by rw [Nat.add_mul]; omega
      _ ≤ _ := Nat.mul_le_mul_right _ hr
  calc (r * c.planes + b) * c.columns.toNat + x < (r * c.planes + b + 1) * c.columns.toNat := by
        rw [Nat.add_mul (r * c.planes + b)]; omega
    _ ≤ _ := Nat.mul_le_mul_right _ h1

/-- Quotient and remainder of a mixed-radix number are its digits. -/
theorem mul_add_inj {n q x r y : Nat} (hx : x < n) (hy : y < n) (h : q * n + x = r * n + y) : q = r ∧ x = y := by
  have e1 : (q * n + x) / n = q := by
    rw [Nat.mul_comm, Nat.mul_add_div (by omega), Nat.div_eq_of_lt hx, Nat.add_zero]
  have e2 : (r * n + y) / n = r := by
    rw [Nat.mul_comm, Nat.mul_add_div (by omega), Nat.div_eq_of_lt hy, Nat.add_zero]
  have e3 : q = r := by rw [← e1, ← e2, h]
  subst e3
  omega

/-- Two words of the layout have one address only if they are the same word (rule R61). -/
theorem ConfigRegs.wordAddr_inj {c : ConfigRegs} {r b x r' b' x' : Nat} (hx : x < c.columns.toNat)
    (hx' : x' < c.columns.toNat) (hb : b < c.planes) (hb' : b' < c.planes)
    (h : c.wordAddr r b x = c.wordAddr r' b' x') : r = r' ∧ b = b' ∧ x = x' := by
  obtain ⟨h1, h2⟩ := mul_add_inj hx hx' h
  obtain ⟨h3, h4⟩ := mul_add_inj hb hb' h1
  exact ⟨h3, h4, h2⟩

/-- The lane shift of a panel row is 0 or 3 (rule R62). -/
theorem ConfigRegs.laneShift_cases {c : ConfigRegs} {y : Nat} (hy : y < c.rows.toNat) (he : c.rows.toNat % 2 = 0) :
    c.laneShift y = 0 ∨ c.laneShift y = 3 := by
  unfold ConfigRegs.laneShift ConfigRegs.scanRows
  have : y / (c.rows.toNat / 2) < 2 := by rw [Nat.div_lt_iff_lt_mul (by omega)]; omega
  omega

/-- Two panel rows that share scan row and lane are the same row (rule R62). -/
theorem ConfigRegs.row_eq_of_lane {c : ConfigRegs} {y y' : Nat} (h1 : c.scanRowOf y = c.scanRowOf y')
    (h2 : c.laneShift y = c.laneShift y') : y = y' := by
  unfold ConfigRegs.scanRowOf at h1
  unfold ConfigRegs.laneShift at h2
  rw [← Nat.div_add_mod y c.scanRows, ← Nat.div_add_mod y' c.scanRows, h1,
    show y / c.scanRows = y' / c.scanRows by omega]

end Sys2Proof.Machine
end

