-- ==== Sys2Proof/Laws/Invariant.lean ====
section
/-! SUPPORT. Runs, the fields the invariant does not speak of, and what it gives for a pulse in flight. -/

namespace Sys2Proof.Machine

/-- A step goes on exactly when it answers a next state. -/
theorem completes_iff {o : Host.Outcome State Fault Refusal} : completes o = true ↔ ∃ t, o = .next t := by
  cases o <;> simp [completes]

/-- A run is one step and the run after it. -/
theorem run_succ {s s' : State} {n : Nat} (h : step s = .next s') :
    Sys2Proof.core.run (n + 1) s = Sys2Proof.core.run n s' := by
  have h' : Sys2Proof.core.step s = .next s' := h
  simp only [Host.Core.run, h']

/-- The invariant does not speak of the turns, the free values drawn, the latch or the response. -/
theorem State.Inv.withPort {s : State} (h : s.Inv) (ts : List Turn) (n : Nat) (w r : Word64) (v : Bool) :
    ({ s with turns := ts, freeCount := n, cmd := w, rspReg := r, rspValid := v } : State).Inv where
  params := h.params
  memory := h.memory
  built a := ⟨(h.built a).legal, (h.built a).table, (h.built a).ring, (h.built a).cur⟩
  unbuilt a :=
    ⟨(h.unbuilt a).act, (h.unbuilt a).active, (h.unbuilt a).pending, (h.unbuilt a).retryUsed, (h.unbuilt a).cur,
      (h.unbuilt a).counters⟩
  running := h.running
  faultStops := h.faultStops
  stopRuns := h.stopRuns
  pulse := ⟨h.pulse.dreg, h.pulse.room, h.pulse.mirror, h.pulse.mirrored⟩
  pins := ⟨h.pins.clkOut, h.pins.lat, h.pins.oeN, h.pins.data⟩
  faultInfo := h.faultInfo

/-- The state a turn is taken in meets the invariant. -/
theorem State.Inv.inTurn {s : State} (h : s.Inv) (rest : List Turn) : (s.inTurn rest).Inv :=
  h.withPort rest s.freeCount s.cmd s.rspReg false

/-- A pulse in flight belongs to a built, running engine, and `DREG` holds the numbers of rule R38 for `CUR`. -/
theorem State.Inv.inFlight {s : State} (h : s.Inv) (hp : s.ph.inFlight = true) :
    s.st = .running ∧ s.BuiltInv ∧ s.dreg.srcBuf = s.active ∧
    s.dreg.srcOff.toNat = s.cur.toNat * s.act.columns.toNat ∧ s.dreg.len.toNat = s.act.columns.toNat ∧
    s.dreg.next.toNat = (s.cur.toNat + 1) % s.act.descriptors := by
  have hrun : s.st = .running := h.running.2 (by rintro h0; simp [h0, Phase.inFlight] at hp)
  have hb := h.built (by simp [hrun])
  obtain ⟨hr, hc, hd⟩ := hb.legal.bounds h.params
  have hv := descriptorFor_values hr hc hd s.active hb.cur
  rw [← h.pulse.dreg hp] at hv
  exact ⟨hrun, hb, by rw [h.pulse.dreg hp]; rfl, hv.1, hv.2.1, hv.2.2.1⟩

end Sys2Proof.Machine
end

