-- ==== Sys2Proof/Laws/PerInstr.lean ====
section
/-! SUPPORT. Statements for all commands, one lemma per constructor of Instr. -/

namespace Sys2Proof.Laws.MatchesRow

/-- The word of a command selects its row of rule R93, and only that row. -/
def Statement (i : Instr) : Prop :=
  rowOf i ∈ opcodeTable ∧ (rowOf i).selects (encode i) = true ∧
    ∀ r ∈ opcodeTable, r.selects (encode i) = true → r = rowOf i

/-- A word whose opcode byte is not a row's does not select the row. -/
theorem not_selects {r : OpcodeRow} {w : Word64} (hm : slice r.mask 56 8 = 0xFF)
    (h : slice w 56 8 ≠ slice r.pattern 56 8) : r.selects w = false := by
  cases hs : r.selects w
  · rfl
  · refine absurd ?_ h
    rw [OpcodeRow.selects, beq_iff_eq] at hs
    rw [← hs, slice, slice, BitVec.extractLsb'_and]
    have hm' : BitVec.extractLsb' 56 8 r.mask = BitVec.allOnes 8 := hm
    rw [hm', BitVec.and_allOnes]

/-- A row is settled by the opcode byte of the word. -/
theorem statement_of {i : Instr} (hmem : rowOf i ∈ opcodeTable) (hsel : (rowOf i).selects (encode i) = true)
    (hop : slice (encode i) 56 8 = opcodeOf i)
    (huniq : ∀ r ∈ opcodeTable, slice r.mask 56 8 = 0xFF ∧ (opcodeOf i = slice r.pattern 56 8 → r = rowOf i)) :
    Statement i := by
  refine ⟨hmem, hsel, fun r hr hs => ?_⟩
  obtain ⟨hm, hu⟩ := huniq r hr
  by_cases h : slice (encode i) 56 8 = slice r.pattern 56 8
  · exact hu (hop ▸ h)
  · rw [not_selects hm h] at hs; cases hs

theorem init : Statement .init := statement_of (by decide) (by decide) (by decide) (by decide)
theorem clear : Statement .clear := statement_of (by decide) (by decide) (by decide) (by decide)
theorem commit : Statement .commit := statement_of (by decide) (by decide) (by decide) (by decide)
theorem start : Statement .start := statement_of (by decide) (by decide) (by decide) (by decide)
theorem stop : Statement .stop := statement_of (by decide) (by decide) (by decide) (by decide)

theorem wrcfg (idx : BitVec 8) (value : BitVec 32) : Statement (.wrcfg idx value) := by
  refine statement_of (by simp only [rowOf]; decide) ?_ ?_ (by simp only [rowOf, opcodeOf]; decide)
  · rw [OpcodeRow.selects, beq_iff_eq]
    apply BitVec.eq_of_getLsbD_eq
    intro i hi
    simp only [rowOf, encode, BitVec.getLsbD_and, BitVec.getLsbD_append]
    interval_cases i <;> simp
  · apply BitVec.eq_of_getLsbD_eq
    intro i hi
    simp only [encode, opcodeOf, slice, BitVec.getLsbD_extractLsb', BitVec.getLsbD_append]
    interval_cases i <;> simp

theorem rdreg (idx : BitVec 8) : Statement (.rdreg idx) := by
  refine statement_of (by simp only [rowOf]; decide) ?_ ?_ (by simp only [rowOf, opcodeOf]; decide)
  · rw [OpcodeRow.selects, beq_iff_eq]
    apply BitVec.eq_of_getLsbD_eq
    intro i hi
    simp only [rowOf, encode, BitVec.getLsbD_and, BitVec.getLsbD_append]
    interval_cases i <;> simp
  · apply BitVec.eq_of_getLsbD_eq
    intro i hi
    simp only [encode, opcodeOf, slice, BitVec.getLsbD_extractLsb', BitVec.getLsbD_append]
    interval_cases i <;> simp

theorem lookup (ch : BitVec 2) (val : BitVec 8) : Statement (.lookup ch val) := by
  refine statement_of (by simp only [rowOf]; decide) ?_ ?_ (by simp only [rowOf, opcodeOf]; decide)
  · rw [OpcodeRow.selects, beq_iff_eq]
    apply BitVec.eq_of_getLsbD_eq
    intro i hi
    simp only [rowOf, encode, BitVec.getLsbD_and, BitVec.getLsbD_append]
    interval_cases i <;> simp
  · apply BitVec.eq_of_getLsbD_eq
    intro i hi
    simp only [encode, opcodeOf, slice, BitVec.getLsbD_extractLsb', BitVec.getLsbD_append]
    interval_cases i <;> simp

theorem setpx (x y : BitVec 16) (red green blue : BitVec 8) : Statement (.setpx x y red green blue) := by
  refine statement_of (by simp only [rowOf]; decide) ?_ ?_ (by simp only [rowOf, opcodeOf]; decide)
  · rw [OpcodeRow.selects, beq_iff_eq]
    apply BitVec.eq_of_getLsbD_eq
    intro i hi
    simp only [rowOf, encode, BitVec.getLsbD_and, BitVec.getLsbD_append]
    interval_cases i <;> simp
  · apply BitVec.eq_of_getLsbD_eq
    intro i hi
    simp only [encode, opcodeOf, slice, BitVec.getLsbD_extractLsb', BitVec.getLsbD_append]
    interval_cases i <;> simp

end Sys2Proof.Laws.MatchesRow
end

