-- ==== Sys2Proof/Laws/Pixel.lean ====
section
/-! SUPPORT. What writing one pixel does to a buffer (rules R141, R143 and R144), what the gamma search can answer (rule R122), and
how an observation extends. -/

namespace Sys2Proof.Machine

/-- The bits of a word after its lane is replaced (rule R141). -/
theorem replaceLane_bit (w : PixelWord) (v : Intensity) (b s j : Nat) (hs : s = 0 ∨ s = 3) (hj : j < 6) :
    (replaceLane w s (v.planeBits b)).getLsbD j =
      if j = s then v.red.getLsbD b
      else if j = s + 1 then v.green.getLsbD b
      else if j = s + 2 then v.blue.getLsbD b
      else w.getLsbD j := by
  unfold replaceLane Intensity.planeBits
  generalize v.red.getLsbD b = r
  generalize v.green.getLsbD b = g
  generalize v.blue.getLsbD b = bl
  rcases hs with rfl | rfl <;> interval_cases j <;> cases r <;> cases g <;> cases bl <;> simp

/-- Writing a pixel keeps the canonical form and the zero bits 7:6. -/
theorem writePixel_keeps (c : ConfigRegs) (x y : Nat) (v : Intensity) {m : Memory} (h1 : m.wf = true)
    (h2 : m.sixBit = true) : (writePixel c x y v m).wf = true ∧ (writePixel c x y v m).sixBit = true := by
  unfold writePixel
  generalize List.range c.planes = l
  induction l generalizing m with
  | nil => exact ⟨h1, h2⟩
  | cons b l ih => exact ih (Memory.wf_writeWord h1 _ _) (Memory.sixBit_writeWord h2 _ _)

theorem writePixel_wf (c : ConfigRegs) (x y : Nat) (v : Intensity) {m : Memory} (h : m.wf = true) :
    (writePixel c x y v m).wf = true := by
  unfold writePixel
  generalize List.range c.planes = l
  induction l generalizing m with
  | nil => exact h
  | cons b l ih => exact ih (Memory.wf_writeWord h _ _)

/-- What the bytes of a buffer read as after some planes of a pixel, at addresses that do not collide, are updated. -/
theorem foldl_writePlane_read {c : ConfigRegs} {x y : Nat} {v : Intensity} {m : Memory} (h : m.wf = true) (l : List Nat)
    (hl : l.Nodup)
    (hinj : ∀ b ∈ l, ∀ b' ∈ l, c.wordAddr (c.scanRowOf y) b x = c.wordAddr (c.scanRowOf y) b' x → b = b') :
    (∀ b ∈ l, (l.foldl (writePlane c x y v) m).read (c.wordAddr (c.scanRowOf y) b x) =
      (replaceLane (m.readWord (c.wordAddr (c.scanRowOf y) b x)) (c.laneShift y) (v.planeBits b)).setWidth 8) ∧
    (∀ a, (∀ b ∈ l, a ≠ c.wordAddr (c.scanRowOf y) b x) → (l.foldl (writePlane c x y v) m).read a = m.read a) := by
  induction l generalizing m with
  | nil => simp
  | cons b l ih =>
    have hw : (writePlane c x y v m b).wf = true := Memory.wf_writeWord h _ _
    obtain ⟨hb, hl'⟩ := List.nodup_cons.1 hl
    obtain ⟨ih1, ih2⟩ := ih hw hl' fun b hb b' hb' => hinj b (by simp [hb]) b' (by simp [hb'])
    refine ⟨fun k hk => ?_, fun a ha => ?_⟩
    · rcases List.mem_cons.1 hk with rfl | hk
      · rw [List.foldl_cons, ih2]
        · exact Memory.read_write_same h _ _
        · rintro b hbl he
          exact hb (hinj k (by simp) b (by simp [hbl]) he ▸ hbl)
      · rw [List.foldl_cons, ih1 k hk]
        have hne : c.wordAddr (c.scanRowOf y) k x ≠ c.wordAddr (c.scanRowOf y) b x := by
          intro he
          exact hb (hinj k (by simp [hk]) b (by simp) he ▸ hk)
        simp only [Memory.readWord]
        rw [writePlane, Memory.read_writeWord_other m _ hne]
    · rw [List.foldl_cons, ih2 a fun b hb => ha b (by simp [hb])]
      exact Memory.read_writeWord_other m _ (ha b (by simp))

/-- Everything writing a pixel does to the bytes of a buffer (rule R143). -/
theorem writePixel_read {c : ConfigRegs} {x y : Nat} {v : Intensity} {m : Memory} (h : m.wf = true)
    (hx : x < c.columns.toNat) :
    (∀ b, b < c.planes → (writePixel c x y v m).read (c.wordAddr (c.scanRowOf y) b x) =
      (replaceLane (m.readWord (c.wordAddr (c.scanRowOf y) b x)) (c.laneShift y) (v.planeBits b)).setWidth 8) ∧
    (∀ a, (∀ b, b < c.planes → a ≠ c.wordAddr (c.scanRowOf y) b x) → (writePixel c x y v m).read a = m.read a) := by
  obtain ⟨h1, h2⟩ := foldl_writePlane_read (x := x) (y := y) (v := v) h (List.range c.planes) List.nodup_range (by
    intro b hb b' hb' he
    simp only [List.mem_range] at hb hb'
    exact (ConfigRegs.wordAddr_inj hx hx hb hb' he).2.1)
  exact ⟨fun b hb => h1 b (by simpa using hb), fun a ha => h2 a (by simpa using ha)⟩

theorem setWidth_six_eight (w : PixelWord) : (w.setWidth 8).setWidth 6 = w := by
  rw [BitVec.setWidth_setWidth_of_le _ (by decide), BitVec.setWidth_eq]

/-- The bit-by-bit search answers a number between the bits decided and the largest it can still reach. -/
theorem gammaSearch_bounds (scale bound k b : Nat) :
    k ≤ gammaSearch scale bound k b ∧ gammaSearch scale bound k b < k + 2 ^ b := by
  induction b generalizing k with
  | zero => simp [gammaSearch]
  | succ b ih =>
    rw [gammaSearch]
    have h1 := ih (k + 2 ^ b)
    have h2 := ih k
    split <;> rw [Nat.pow_succ] <;> omega

theorem gammaEntry_lt (p n i : Nat) : gammaEntry p n i < 2 ^ n := by
  simpa [gammaEntry] using (gammaSearch_bounds (255 ^ p) ((2 * (2 ^ n - 1)) ^ 256 * i ^ p) 0 n).2

/-- The table `INIT` builds holds the entries of rule R122, with no truncation at a legal depth. -/
theorem buildTable_lookup {c : ConfigRegs} (hd : c.depth.toNat ≤ 16) (ch : Channel) (i : BitVec 8) :
    ((buildTable c).lookup ch i).toNat = gammaEntry (c.gammaRaw ch) c.planes i.toNat := by
  have h1 := gammaEntry_lt (c.gammaRaw ch) c.planes i.toNat
  have h2 : 2 ^ c.planes ≤ 2 ^ 16 := Nat.pow_le_pow_right (by decide) hd
  cases ch <;>
    simp only [GammaTable.lookup, GammaTable.channel, buildTable, buildChannel, Vector.getElem_ofFn, BitVec.toNat_ofNat] <;>
    exact Nat.mod_eq_of_lt (by omega)

/-- An observation extended: untorn before, and untorn from there on. -/
theorem untorn_append (k : Option BufId) (a b : List Record) :
    Untorn k (a ++ b) ↔ Untorn k a ∧ Untorn (cycleBuf k a) b := by
  induction a generalizing k with
  | nil => simp [Untorn, cycleBuf]
  | cons r a ih => cases r <;> simp [Untorn, cycleBuf, ih, and_assoc]

theorem cycleBuf_append (k : Option BufId) (a b : List Record) : cycleBuf k (a ++ b) = cycleBuf (cycleBuf k a) b := by
  induction a generalizing k with
  | nil => rfl
  | cons r a ih => cases r <;> simp [cycleBuf, ih]

end Sys2Proof.Machine
end

