-- ==== Sys2Proof/Tests/Slice0.lean ====
section
/-! SUPPORT. Tests on fixed values, taken from spec/95_test_vectors.md (V…) or worked by hand from the rules, and one witness
per statement with hypotheses: a concrete state and operands that meet all of them. -/

open Sys2Proof Sys2Proof.Machine

namespace Sys2Proof.Tests

-- One theorem after the other: many kernel evaluations waiting for one another exhaust the threads.
set_option Elab.async false

/-! ### Fixtures -/

/-- The small geometry of the vectors: 4 rows, 2 columns, 2 planes, gamma 1.0, tick 1. -/
def small : ConfigRegs := ⟨4, 2, 2, 256, 256, 256, 1⟩

/-- The parameters the vectors assume. -/
def bench : Params := ⟨65535, 500000⟩

/-- Right after reset, with the parameters of the vectors and a configuration staged. -/
def staged (c : ConfigRegs) : State := { State.reset with params := bench, cfg := c }

/-- `Ready` in the small geometry. -/
def ready : State := (staged small).build

/-- `Running`, at descriptor `cur`, with some words in buffer A and the shift mirror as descriptor 2 leaves it. -/
def running (cur : BitVec 16) (ph : Phase) (k : BitVec 16) : State :=
  { ready with
    st := .running, cur := cur, ph := ph, shiftK := k, dreg := descriptorFor small .A cur.toNat
    bufA := [(0, 9), (5, 36)], sr := [(1, 36)] }

/-- The state with the given turns to come. -/
def taking (s : State) (ts : List Turn) : State := { s with turns := ts }

/-- The response word a step presents. -/
def answer (o : Host.Outcome State Fault Refusal) : Option Word64 :=
  match o with
  | .next s => if s.rspValid then some s.rspReg else none
  | .fault _ => none
  | .refused _ => none

/-- A property of the next state. -/
def afterwards (o : Host.Outcome State Fault Refusal) (p : State → Bool) : Bool :=
  match o with
  | .next s => p s
  | .fault _ => false
  | .refused _ => false

/-! ### WellFormed: each check refuses an ill-formed command -/

theorem test_wrcfg_index_refused : (Instr.wrcfg 7 0).wellFormed = false ∧ (Instr.wrcfg 6 0).wellFormed = true := by decide
theorem test_rdreg_index_refused :
    (Instr.rdreg 0x07).wellFormed = false ∧ (Instr.rdreg 0x0F).wellFormed = false ∧
    (Instr.rdreg 0x15).wellFormed = false ∧ (Instr.rdreg 0x17).wellFormed = false ∧
    (Instr.rdreg 0x1F).wellFormed = false ∧ (Instr.rdreg 0x1E).wellFormed = true := by decide
theorem test_lookup_channel_refused : (Instr.lookup 3 0).wellFormed = false ∧ (Instr.lookup 2 0).wellFormed = true := by
  decide

/-! ### Decode: the words of V20 to V40 and of P1, and the illegal words of V22 to V38 -/

theorem test_decode_wrcfg : decode 0x01060000FFFFFFFF = .ok (.wrcfg 6 0xFFFFFFFF) := by decide
theorem test_decode_rdreg : decode 0x021A000000000000 = .ok (.rdreg 0x1A) := by decide
theorem test_decode_init : decode 0x0300000000000000 = .ok .init := by decide
theorem test_decode_lookup : decode 0x04000000000002FF = .ok (.lookup 2 255) := by decide
theorem test_decode_setpx : decode 0x10003F003F123456 = .ok (.setpx 63 63 0x12 0x34 0x56) := by decide
theorem test_decode_clear : decode 0x1100000000000000 = .ok .clear := by decide
theorem test_decode_commit : decode 0x1200000000000000 = .ok .commit := by decide
theorem test_decode_start : decode 0x2000000000000000 = .ok .start := by decide
theorem test_decode_stop : decode 0x2100000000000000 = .ok .stop := by decide

theorem test_decode_illegal :
    decode 0x0107000000000001 = .error .registerIndex ∧ decode 0x0100000100000040 = .error .reservedBits ∧
    decode 0x0215000000000000 = .error .registerIndex ∧ decode 0x0210000000000001 = .error .reservedBits ∧
    decode 0x0300000000000001 = .error .reservedBits ∧ decode 0x2080000000000000 = .error .reservedBits ∧
    decode 0x0400000000000300 = .error .reservedChannel ∧ decode 0x0400000000000400 = .error .reservedBits := by decide
theorem test_decode_reserved_opcodes :
    decode 0 = .error .reservedOpcode ∧ decode 0x0500000000000000 = .error .reservedOpcode ∧
    decode 0x1300000000000000 = .error .reservedOpcode ∧ decode 0x2200000000000000 = .error .reservedOpcode ∧
    decode 0xFF00000000000000 = .error .reservedOpcode := by decide

/-- Least significant byte first (rule R65), and the table's numbering of the bits. -/
theorem test_decode_bytes :
    decodeBytes [0x40, 0, 0, 0, 0, 0, 0, 0x01, 0xAA] = .ok (.wrcfg 0 64, [0xAA]) ∧
    decodeBytes [0, 0, 0, 0, 0, 0, 0x21] = .error .tooShort ∧ decodeTableWord 64 0x1000010003FF8000 =
      some (.setpx 1 3 255 128 0) := by decide

/-- The other two words of rule R65: a response, and the image of the descriptor of rule R214's example. -/
theorem test_response_and_image_bytes :
    responseBytes 0x04 0x102 = [0x02, 0x01, 0, 0, 0, 0, 0, 0x04] ∧
    (⟨.B, 4, 2, 0, 1, 1, 0, 1⟩ : Descriptor).imageBytes = [4, 0, 0, 0, 2, 0, 1, 0, 1, 0, 0, 0, 0, 0, 0x01, 0x02] := by decide

/-! ### The textual form (rules R99 and R100) -/

theorem test_assemble_line : Assembler.assembleLine "SETPX 1, 3, 255, 128, 0 ; a pixel".toList =
    some [.setpx 1 3 255 128 0] := by decide +kernel
theorem test_assemble_colour : Assembler.assembleLine "SETPX 63, 63, #123456".toList =
    some [.setpx 63 63 0x12 0x34 0x56] := by decide +kernel
theorem test_assemble_names : Assembler.assemble "WRCFG CFG_BASE_TICK, 0xFFFFFFFF\n\nRDREG ACT_DEPTH\nLOOKUP B, 255" =
    some [.wrcfg 6 0xFFFFFFFF, .rdreg 0x1A, .lookup 2 255] := by decide +kernel
theorem test_assemble_new : Assembler.assembleLine "NEW 4, 2, 2, 256, 256, 256, 1".toList =
    some [.wrcfg 0 4, .wrcfg 1 2, .wrcfg 2 2, .wrcfg 3 256, .wrcfg 4 256, .wrcfg 5 256, .wrcfg 6 1, .init] := by
  decide +kernel

/-! ### The gamma table (V4, V8, V10, V12) -/

theorem test_gamma_linear : [42, 43, 127, 128, 212, 213].map (gammaEntry 256 2) = [0, 1, 1, 2, 2, 3] := by decide +kernel
theorem test_gamma_noninteger :
    [4, 5, 8, 64, 128, 255].map (gammaEntry 563 12) = [0, 1, 2, 196, 899, 4095] := by decide +kernel
theorem test_gamma_extremes :
    [0, 1, 2, 128].map (gammaEntry 1 12) = [0, 4007, 4018, 4084] ∧
    [246, 247, 254].map (gammaEntry 65535 12) = [0, 1, 1498] := by decide +kernel

/-! ### One step of each command (V25, V28, V40 to V48, V60 to V68) -/

theorem test_wrcfg_answers : answer (exec (.wrcfg 0 64) (staged ConfigRegs.zero)) = some 0 := by decide +kernel
theorem test_wrcfg_refused_running : answer (exec (.wrcfg 0 4) (running 0 .fetch 0)) = some 0x0400000000000002 := by
  decide +kernel
theorem test_rdreg_reads_staged : answer (exec (.rdreg 0) (staged small)) = some 4 := by decide +kernel
theorem test_rdreg_status : answer (exec (.rdreg 0x10) (running 0 .fetch 0)) = some 0x102 := by decide +kernel
theorem test_init_first_failing_check :
    [⟨0, 0, 20, 0, 0, 0, 0⟩, ⟨64, 0, 20, 0, 0, 0, 0⟩, ⟨64, 64, 20, 256, 256, 256, 0⟩, ⟨64, 64, 8, 256, 256, 65536, 1⟩,
      ⟨64, 64, 8, 256, 256, 256, 0⟩, ⟨2, 1, 1, 256, 256, 256, 500001⟩].map
        (fun c => answer (exec .init (staged c))) =
      [1, 2, 3, 4, 5, 6].map (fun n => some (0x0100000000000000#64 + n)) := by decide +kernel
theorem test_init_boundaries :
    (([⟨2, 1, 1, 256, 256, 256, 500000⟩, ⟨64, 65535, 1, 256, 256, 256, 1⟩, ⟨64, 64, 12, 65535, 1, 563, 1⟩] :
      List ConfigRegs).map fun c => c.failedCheck bench) = [none, none, none] := by decide +kernel
theorem test_lookup : answer (exec (.lookup 0 255) ready) = some 3 ∧
    answer (exec (.lookup 2 255) (staged small)) = some 0x0400000000000000 := by decide +kernel
theorem test_setpx_writes :
    afterwards (exec (.setpx 1 3 255 128 0) ready) (fun t => t.bufB == [(5, 0x08), (7, 0x18)] && t.bufA == []) = true ∧
    afterwards (exec (.setpx 0 0 43 42 213) { ready with bufB := [(0, 0x3F), (2, 0x3F), (5, 4), (7, 4)] })
      (fun t => t.bufB == [(0, 0x3D), (2, 0x3C), (5, 4), (7, 4)]) = true := by decide +kernel
theorem test_setpx_out_of_bounds : answer (exec (.setpx 2 0 0 0 0) ready) = some 0x0200000000000000 ∧
    afterwards (exec (.setpx 0 4 0 0 0) ready) (fun t => t.oobCount == 1) = true := by decide +kernel
theorem test_clear :
    afterwards (exec .clear { ready with bufB := [(0, 7), (7, 63), (8, 1)], bufA := [(3, 3)] })
      (fun t => t.bufB == [(8, 1)] && t.bufA == [(3, 3)]) = true := by decide +kernel
theorem test_commit_status : afterwards (exec .commit ready) (fun t => t.status == 0x5) = true := by decide +kernel
theorem test_start_status : afterwards (exec .start { ready with pending := true }) (fun t => t.status == 0x106) = true := by
  decide +kernel
theorem test_stop_waits : answer (exec .stop (running 0 .fetch 0)) = none ∧
    answer (exec .stop ready) = some 0x0400000000000001 := by decide +kernel

/-! ### One step of the background agent, the timeout, the reset (V53, V69, V76, P2) -/

theorem test_fetch_adopts :
    afterwards (step (taking { running 0 .fetch 0 with pending := true } [.background])) (fun t =>
      t.status == 0x20A && t.dreg == ⟨.B, 0, 2, 0, 1, 0, 0, 1⟩) = true := by decide +kernel
theorem test_fetch_stop_wins :
    afterwards (step (taking { running 0 .fetch 0 with pending := true, stopReq := true } [.background])) (fun t =>
      t.status == 0x07 && t.observed == [.rsp 0 0]) = true := by decide +kernel
theorem test_shift_word : afterwards (step (taking (running 2 .shift 1) [.background])) (fun t =>
    t.ph == .latch && t.sr == [(1, 36)] && t.wave == [.shiftClock 36] && t.pins.data == 0) = true := by decide +kernel
theorem test_latch_record : afterwards (step (taking (running 2 .latch 2) [.background])) (fun t =>
    t.observed == [.pulse 1 0 .A [0, 36] 1] && t.pins.addr == 1) = true := by decide +kernel
theorem test_hold_done : afterwards (step (taking (running 3 .hold 2) [.background])) (fun t =>
      t.wave == [.enable 2] && t.ph == .done) = true ∧
    afterwards (step (taking { running 3 .done 2 with retryUsed := true } [.background])) (fun t =>
      t.cur == 0 && t.ph == .fetch && t.retryUsed == false) = true := by decide +kernel
theorem test_timeout_restart : afterwards (step (taking (running 2 .shift 1) [.timeout])) (fun t =>
    t.retryUsed && t.cur == 0 && t.ph == .fetch && t.faultInfo == 0x20002 && t.observed == [.abort 2]) = true := by
  decide +kernel
theorem test_timeout_escalates :
    afterwards (step (taking { running 2 .latch 2 with retryUsed := true, stopReq := true } [.timeout])) (fun t =>
      t.irqFault && t.st == .stopped && t.cur == 2 && t.observed == [.abort 2, .rsp 3 0]) = true := by decide +kernel
theorem test_fetch_word_runs : step (ready.withFetchWord 64 0x1200000000000000) =
    exec .commit { ready with cmd := 0x1200000000000000 } := by rfl

/-! ### Witnesses: the invariant -/

theorem small_legal : small.Legal bench := by decide
theorem ready_ring : ∀ d, d < small.descriptors → ready.desc[d]? = some (descriptorFor small .A d) := by decide +kernel

theorem witness_ready : ready.Inv where
  params := by show bench.Legal; decide
  memory := by decide +kernel
  built _ := ⟨small_legal, rfl, ready_ring, by decide +kernel⟩
  unbuilt h := by cases h
  running := by decide +kernel
  faultStops h := by cases h
  stopRuns h := by cases h
  pulse := ⟨fun h => (by cases h), fun h => (by cases h), fun h => (by cases h), fun h => (by cases h)⟩
  pins := ⟨rfl, rfl, rfl, fun _ => rfl⟩
  faultInfo := by decide +kernel

/-- The invariant of the running fixtures. -/
theorem running_inv {cur : BitVec 16} {ph : Phase} {k : BitVec 16} (hc : cur = 0 ∨ cur = 2) (hp : ph ≠ .off)
    (hk : k = 0 ∨ k = 1) (h0 : cur = 0 → ph = .fetch) (pending stopReq retry : Bool) (ts : List Turn) :
    ({ running cur ph k with pending := pending, stopReq := stopReq, retryUsed := retry, turns := ts } : State).Inv where
  params := by show bench.Legal; decide
  memory := by
    show ((running 0 .fetch 0).bufA.wf = true ∧ ready.bufB.wf = true ∧ (running 0 .fetch 0).sr.wf = true) ∧
      ((running 0 .fetch 0).bufA.sixBit = true ∧ ready.bufB.sixBit = true ∧ (running 0 .fetch 0).sr.sixBit = true)
    decide +kernel
  built _ := ⟨small_legal, rfl, ready_ring, by
    rcases hc with rfl | rfl
    · show (0#16).toNat < small.descriptors; decide
    · show (2#16).toNat < small.descriptors; decide⟩
  unbuilt h := by cases h
  running := ⟨fun _ => hp, fun _ => rfl⟩
  faultStops h := by cases h
  stopRuns _ := rfl
  pulse := by
    rcases hc with rfl | rfl
    · obtain rfl := h0 rfl
      exact ⟨fun _ => rfl, fun h => (by cases h), fun h => (by cases h), fun h => (by cases h)⟩
    · refine ⟨fun _ => rfl, fun _ => ?_, fun _ => ?_, fun _ => ?_⟩
      · rcases hk with rfl | rfl
        · show (0#16).toNat < small.columns.toNat; decide
        · show (1#16).toNat < small.columns.toNat; decide
      · have : ∀ x, x < 1 → Memory.readWord [(1, 36)] x = Memory.readWord [(0, 9), (5, 36)] (2 * 2 + x) := by decide
        intro x hx
        refine this x (Nat.lt_of_lt_of_le hx ?_)
        rcases hk with rfl | rfl
        · show (0#16).toNat ≤ 1; decide
        · show (1#16).toNat ≤ 1; decide
      · show ∀ x, x < 2 → Memory.readWord [(1, 36)] x = Memory.readWord [(0, 9), (5, 36)] (2 * 2 + x)
        decide
  pins := ⟨rfl, rfl, rfl, fun _ => rfl⟩
  faultInfo := by show (0#32).toNat < 2 ^ 19; decide

/-- The running fixture with one turn to come meets the invariant. -/
theorem running_taking {cur : BitVec 16} {ph : Phase} {k : BitVec 16} (hc : cur = 0 ∨ cur = 2) (hp : ph ≠ .off)
    (hk : k = 0 ∨ k = 1) (h0 : cur = 0 → ph = .fetch) (ts : List Turn) : (taking (running cur ph k) ts).Inv :=
  running_inv hc hp hk h0 false false false ts

/-! ### Witnesses: the encoding and the port -/

theorem witness_EncodeThenDecode :
    (Instr.wrcfg 6 0xFFFFFFFF).wellFormed = true ∧ (Instr.rdreg 0x1E).wellFormed = true ∧
    (Instr.lookup 2 255).wellFormed = true ∧ (Instr.setpx 65535 65535 255 255 255).wellFormed = true := by decide
theorem witness_LegalWords : LegalWord 0x01060000FFFFFFFF ∧ LegalWord 0x021E000000000000 ∧
    LegalWord 0x04000000000002FF ∧ LegalWord 0x10FFFFFFFF000000 ∧ LegalWord 0x2100000000000000 ∧
    ¬ LegalWord 0x0107000000000000 ∧ ¬ LegalWord 0x0400000000000400 ∧ ¬ LegalWord 0x2200000000000000 := by
  refine ⟨?_, ?_, ?_, ?_, ?_, ?_, ?_, ?_⟩ <;> unfold LegalWord <;> decide
theorem witness_AcceptedWord : decode 0x01060000FFFFFFFF = .ok (.wrcfg 6 0xFFFFFFFF) := by decide
theorem witness_StepExecutes :
    (taking ready [.command 0x1200000000000000]).turns = [.command 0x1200000000000000] ∧
    (taking ready [.command 0x1200000000000000]).stopReq = false ∧ decode 0x1200000000000000 = .ok .commit :=
  ⟨rfl, rfl, by decide⟩
theorem witness_IllegalWord : (taking ready [.command 0x2200000000000000]).turns = [.command 0x2200000000000000] ∧
    (taking ready [.command 0x2200000000000000]).stopReq = false ∧ ¬ LegalWord 0x2200000000000000 :=
  ⟨rfl, rfl, by unfold LegalWord; decide⟩
theorem witness_PortTakesNothing :
    (taking { running 2 .latch 0 with stopReq := true } [.command 0]).turns = [.command 0] ∧
    (taking { running 2 .latch 0 with stopReq := true } [.command 0]).stopReq = true := ⟨rfl, rfl⟩
theorem witness_AcceptanceMatrix :
    (running 0 .fetch 0).st ∉ acceptedIn .init ∧ ready.st ∉ acceptedIn .stop ∧ State.reset.st ∉ acceptedIn .clear ∧
    ready.st ∈ acceptedIn .commit ∧ ∃ t, exec .commit ready = .next t :=
  ⟨by decide +kernel, by decide +kernel, by decide +kernel, by decide +kernel, _, rfl⟩
theorem witness_IllegalOperands : (Instr.wrcfg 7 0).wellFormed = false ∧ (Instr.rdreg 0x15).wellFormed = false ∧
    (Instr.lookup 3 0).wellFormed = false := by decide
theorem witness_CommandAnswers : (∃ t, exec .commit ready = .next t) ∧ ∃ t, exec .stop (running 0 .fetch 0) = .next t :=
  ⟨⟨_, rfl⟩, ⟨_, rfl⟩⟩
theorem witness_ResetTurn : (taking (running 2 .hold 0) [.reset]).turns = .reset :: [] ∧
    (taking (running 2 .hold 0) [.reset]).ph = .hold ∧ (taking ready [.reset]).turns = .reset :: [] ∧
    (taking ready [.reset]).ph ≠ .hold := ⟨rfl, rfl, rfl, by decide +kernel⟩

/-! ### Witnesses: the commands -/

theorem witness_Wrcfg : (6#8).toNat ≤ 6 ∧ ready.st ≠ .running ∧ 6 < (7#8).toNat := by decide +kernel
theorem witness_Rdreg : (0x00#8, ready.cfg.rows) ∈ ready.registerMap ∧ (0x06#8, ready.cfg.baseTick) ∈ ready.registerMap ∧
    (0x10#8, ready.status) ∈ ready.registerMap ∧ (0x14#8, ready.cur.setWidth 32) ∈ ready.registerMap ∧
    (0x1E#8, ready.act.baseTick) ∈ ready.registerMap := by simp [State.registerMap]
theorem witness_RdregIllegal : (∀ v, (0x07#8, v) ∉ ready.registerMap) ∧ (∀ v, (0x15#8, v) ∉ ready.registerMap) ∧
    ∀ v, (0x1F#8, v) ∉ ready.registerMap := by simp [State.registerMap]
theorem witness_Init : (staged small).st ≠ .running ∧ bench.Legal ∧ small.Legal bench := by decide +kernel
theorem witness_InitFails : [⟨65, 2, 2, 256, 256, 256, 1⟩, ⟨4, 0, 2, 256, 256, 256, 1⟩, ⟨4, 2, 17, 256, 256, 256, 1⟩,
      ⟨4, 2, 2, 256, 65536, 256, 1⟩, ⟨4, 2, 2, 256, 256, 256, 0⟩, ⟨4, 2, 2, 256, 256, 256, 83334⟩].map
        (fun c => ConfigRegs.failedCheck c bench) = [some 1, some 2, some 3, some 4, some 5, some 6] := by decide +kernel
theorem witness_InitFailsFirst : (staged ⟨3, 2, 2, 256, 256, 256, 1⟩).st ≠ .running ∧ (1 : Nat) ≠ 0 ∧
    (staged ⟨3, 2, 2, 256, 256, 256, 1⟩).cfg.rows.toNat % 2 = 1 := by decide +kernel
theorem witness_Built : ready.st ≠ .uninitialized ∧ (running 2 .hold 0).st ≠ .uninitialized := by decide +kernel
theorem witness_SetpxWrites : ready.st ≠ .uninitialized ∧ (1#16).toNat < ready.act.columns.toNat ∧
    (3#16).toNat < ready.act.rows.toNat ∧ ready.act.rows.toNat % 2 = 0 ∧ (ready.buf ready.active.other).wf = true ∧
    1 < ready.act.planes := by decide +kernel
theorem witness_SetpxOutOfBounds : ready.act.columns.toNat ≤ (2#16).toNat ∧ ready.act.rows.toNat ≤ (4#16).toNat := by
  decide +kernel
theorem witness_SetpxReadsBack : ready.Inv ∧ ready.st ≠ .uninitialized ∧ (1#16).toNat < ready.act.columns.toNat ∧
    (3#16).toNat < ready.act.rows.toNat ∧ ∃ t, exec (.setpx 1 3 255 128 0) ready = .next t :=
  ⟨witness_ready, by decide +kernel, by decide +kernel, by decide +kernel, completes_iff.1 (by decide +kernel)⟩
theorem witness_SecondSetpx : ∃ t u v, exec (.setpx 1 3 255 128 0) ready = .next t ∧
    exec (.setpx 1 3 0 0 255) t = .next u ∧ exec (.setpx 1 3 0 0 255) ready = .next v := by
  refine ⟨(ready.setPixel 1 3 (ready.lut.convert 255 128 0)).respond 0, ?_⟩
  obtain ⟨u, hu⟩ := (completes_iff (o := exec (.setpx 1 3 0 0 255)
    ((ready.setPixel 1 3 (ready.lut.convert 255 128 0)).respond 0))).1 (by decide +kernel)
  obtain ⟨v, hv⟩ := (completes_iff (o := exec (.setpx 1 3 0 0 255) ready)).1 (by decide +kernel)
  exact ⟨u, v, rfl, hu, hv⟩
theorem witness_Start : ready.st = .ready ∧ ({ ready with st := .stopped } : State).st = .stopped := ⟨rfl, rfl⟩
theorem witness_Stop : (running 2 .hold 0).st = .running := rfl
theorem witness_FaultSetpx : ({ ready with act := { small with rows := 1 } } : State).st ≠ .uninitialized ∧
    0 < small.columns.toNat ∧ ({ small with rows := 1 } : ConfigRegs).bufWords ≤
      ({ small with rows := 1 } : ConfigRegs).wordAddr (({ small with rows := 1 } : ConfigRegs).scanRowOf 0) 0 0 := by
  decide +kernel
theorem witness_FaultShift : (taking { running 2 .shift 0 with shiftK := 4 } [.background]).turns = [.background] ∧
    ({ running 2 .shift 0 with shiftK := 4 } : State).act.bufWords ≤
      ({ running 2 .shift 0 with shiftK := 4 } : State).dreg.srcOff.toNat + (4#16).toNat := ⟨rfl, by decide +kernel⟩
theorem witness_FaultFetch : (taking { running 0 .fetch 0 with cur := 512 } [.background]).turns = [.background] ∧
    ({ running 0 .fetch 0 with cur := 512 } : State).st = .running ∧ 512 ≤ (512#16).toNat := ⟨rfl, rfl, by decide⟩

/-! ### Witnesses: the background agent and the timeout -/

theorem witness_FetchStop : (taking { running 0 .fetch 0 with stopReq := true, pending := true } [.background]).turns =
    [.background] ∧ (running 0 .fetch 0).st = .running ∧ (running 0 .fetch 0).ph = .fetch := ⟨rfl, rfl, rfl⟩
theorem witness_FetchLoads : ({ running 2 .fetch 0 with pending := true } : State).stopReq = false ∧
    ¬ ((2#16) = 0 ∧ ({ running 2 .fetch 0 with pending := true } : State).pending = true) ∧
    ∃ r, (running 2 .fetch 0).desc[(2#16).toNat]? = some r := ⟨rfl, by decide, _, ready_ring 2 (by decide)⟩
theorem witness_FetchAdopts : ({ running 0 .fetch 0 with pending := true } : State).stopReq = false ∧
    ({ running 0 .fetch 0 with pending := true } : State).cur = 0 ∧
    ({ running 0 .fetch 0 with pending := true } : State).pending = true := ⟨rfl, rfl, rfl⟩
theorem witness_Shift : (taking (running 2 .shift 1) [.background]).turns = [.background] ∧
    (running 2 .shift 1).ph = .shift ∧ (running 2 .shift 1).sr.wf = true ∧
    (running 2 .shift 1).dreg.srcOff.toNat + (running 2 .shift 1).shiftK.toNat < (running 2 .shift 1).act.bufWords :=
  ⟨rfl, rfl, by decide, by decide +kernel⟩
theorem witness_Latch : (taking (running 2 .latch 0) [.background]).turns = [.background] ∧
    (running 2 .latch 0).ph = .latch := ⟨rfl, rfl⟩
theorem witness_Hold : (taking (running 2 .hold 0) [.background]).turns = [.background] ∧
    (running 2 .hold 0).ph = .hold := ⟨rfl, rfl⟩
theorem witness_Done : (taking (running 2 .done 0) [.background]).turns = [.background] ∧
    (running 2 .done 0).ph = .done := ⟨rfl, rfl⟩
theorem witness_FirstTimeout : ∀ ph ∈ [Phase.shift, .latch, .hold, .done],
    (taking (running 2 ph 0) [.timeout]).turns = [.timeout] ∧ (running 2 ph 0).st = .running ∧
    (running 2 ph 0).ph = ph ∧ (running 2 ph 0).retryUsed = false := fun _ _ => ⟨rfl, rfl, rfl, rfl⟩
theorem witness_SecondTimeout : ∀ ph ∈ [Phase.shift, .latch, .hold, .done], ∀ b : Bool,
    (taking { running 2 ph 0 with retryUsed := true, stopReq := b } [.timeout]).turns = [.timeout] ∧
    ({ running 2 ph 0 with retryUsed := true, stopReq := b } : State).st = .running ∧
    ({ running 2 ph 0 with retryUsed := true, stopReq := b } : State).ph = ph ∧
    ({ running 2 ph 0 with retryUsed := true, stopReq := b } : State).retryUsed = true ∧
    ({ running 2 ph 0 with retryUsed := true, stopReq := b } : State).stopReq = b := fun _ _ _ => ⟨rfl, rfl, rfl, rfl, rfl⟩
theorem witness_NoTimeout : (taking ready [.timeout]).turns = [.timeout] ∧ ready.st ≠ .running ∧ ready.ph = .off ∧
    (running 0 .fetch 0).ph = .fetch := ⟨rfl, by decide +kernel, rfl, rfl⟩

theorem witness_NoBackground : (taking ready [.background]).turns = [.background] ∧ ready.ph = .off ∧
    ({ ready with ph := .fetch } : State).ph = .fetch ∧ ({ ready with ph := .fetch } : State).st ≠ .running :=
  ⟨rfl, rfl, rfl, by decide +kernel⟩

/-! ### Witnesses: the invariants, the whole-machine rules, the panel -/

theorem witness_StepKeeps : (taking (running 2 .latch 0) [.background]).Inv ∧
    ∃ t, step (taking (running 2 .latch 0) [.background]) = .next t :=
  ⟨running_taking (.inr rfl) (by decide) (.inl rfl) (by decide) _, _, rfl⟩
theorem witness_StepKeepsMemories : (taking (running 2 .shift 1) [.background]).MemoryInv ∧
    ∃ t, step (taking (running 2 .shift 1) [.background]) = .next t :=
  ⟨by decide +kernel, completes_iff.1 (by decide +kernel)⟩
theorem witness_StepKeepsUntorn : (taking (running 0 .fetch 0) [.background]).SwapInv ∧
    ∃ t, step (taking (running 0 .fetch 0) [.background]) = .next t :=
  ⟨⟨running_taking (.inl rfl) (by decide) (.inl rfl) (by decide) _, trivial, fun h => (by cases h)⟩,
    completes_iff.1 (by decide +kernel)⟩
theorem witness_Untorn :
    Untorn none [.pulse 0 0 .B [7, 0] 1, .rsp 0 0, .pulse 0 1 .B [7, 0] 2, .abort 2, .pulse 0 0 .A [0, 0] 1] ∧
    ¬ Untorn none [.pulse 0 0 .B [7, 0] 1, .pulse 0 1 .A [7, 0] 2] := by simp [Untorn]
theorem witness_TakeTurn : (∃ t, takeTurn (.command 0x1100000000000000) ready = .next t) ∧
    (∃ t, takeTurn .background (running 2 .done 0) = .next t) ∧ (∃ t, takeTurn .timeout (running 2 .shift 1) = .next t) ∧
    ∃ t, takeTurn .reset ready = .next t :=
  ⟨completes_iff.1 (by decide +kernel), ⟨_, rfl⟩, ⟨_, rfl⟩, ⟨_, rfl⟩⟩
theorem witness_CurChanges : (running 2 .done 0).Inv ∧ ∃ t, takeTurn .background (running 2 .done 0) = .next t :=
  ⟨running_inv (.inr rfl) (by decide) (.inl rfl) (by decide) false false false [], _, rfl⟩
/-- Gamma 2.0 on red, a fraction on green, the largest exponent on blue. -/
theorem witness_GammaTable : (⟨4, 2, 2, 512, 563, 65535, 1⟩ : ConfigRegs).Legal bench ∧
    (⟨4, 2, 2, 512, 563, 65535, 1⟩ : ConfigRegs).gammaRaw .red = 256 * 2 ∧ (0 : Nat) < 1 ∧ 2 * 256 = 512 * 1 ∧ (0 : Nat) < 2 ∧
    (254#8).toNat < (255#8).toNat ∧
    (⟨4, 2, 2, 512, 563, 65535, 1⟩ : ConfigRegs).gammaRaw .red = (⟨2, 1, 2, 1, 1, 512, 1⟩ : ConfigRegs).gammaRaw .blue := by
  decide
theorem witness_Pulse : (taking (running 2 .latch 0) [.background]).Inv ∧
    (taking (running 2 .latch 0) [.background]).turns = [.background] ∧
    (taking (running 2 .latch 0) [.background]).ph = .latch :=
  ⟨running_taking (.inr rfl) (by decide) (.inl rfl) (by decide) _, rfl, rfl⟩

/-- A cycle at its boundary, with a commit pending or not. -/
theorem witness_CompleteCycle (pending : Bool) :
    let s : State := { running 0 .fetch 0 with pending := pending, turns := List.replicate 24 .background }
    s.Inv ∧ s.st = .running ∧ s.ph = .fetch ∧ s.cur = 0 ∧ s.stopReq = false ∧ s.pending = pending ∧
      s.turns = List.replicate (s.act.descriptors * (s.act.columns.toNat + 4)) .background ++ [] :=
  ⟨running_inv (.inl rfl) (by decide) (.inl rfl) (by decide) pending false false _, rfl, rfl, rfl, rfl, rfl, by
    show List.replicate 24 _ = List.replicate (small.descriptors * (small.columns.toNat + 4)) _ ++ []
    rw [show small.descriptors * (small.columns.toNat + 4) = 24 by decide, List.append_nil]⟩
theorem witness_DutyCycle : bench.Legal ∧ small.Legal bench ∧ 1 < small.columns.toNat ∧ 3 < small.rows.toNat := by decide
theorem witness_StopIsHonoured :
    ∀ ph ∈ [Phase.fetch, .shift, .latch, .hold, .done],
      let s : State := { running 2 ph 0 with stopReq := true, turns := List.replicate 6 .background }
      s.Inv ∧ s.st = .running ∧ s.stopReq = true ∧
        s.turns = List.replicate (s.act.columns.toNat + 4) .background ++ [] := by
  intro ph h
  have hp : ph ≠ .off := by rintro rfl; simp at h
  exact ⟨running_inv (.inr rfl) hp (.inl rfl) (fun h0 => absurd h0 (by decide)) false true false _, rfl, rfl, rfl⟩
theorem witness_New :
    let s : State := taking (staged ConfigRegs.zero) ((Assembler.expandNew 4 2 2 256 256 256 1).map fun i => .command (encode i))
    s.st ≠ .running ∧ s.stopReq = false ∧ small.Legal s.params ∧
      s.turns = (Assembler.expandNew small.rows small.columns small.depth small.gammaR small.gammaG small.gammaB
        small.baseTick).map (fun i => .command (encode i)) ++ [] :=
  ⟨by decide +kernel, rfl, small_legal, rfl⟩

end Sys2Proof.Tests
end

section
/-! The registers a command can read: the fields of `STATUS` (rule R32), what a legal `RDREG` answers (rules R36 and R242),
and what reset leaves in every one of them (rule R44). -/

namespace Sys2Proof.Machine

/-! ### The fields of `STATUS` (rule R32) -/

/-- Each field is one operand of the concatenation that makes the word: once the operands below the field are dropped, the
field is all of the lowest operand left. -/
theorem State.status_fields (s : State) :
    slice s.status 0 2 = s.st.code ∧ slice s.status 2 1 = BitVec.ofBool s.pending ∧
    slice s.status 3 1 = s.active.code ∧ slice s.status 4 1 = BitVec.ofBool s.retryUsed ∧
    slice s.status 5 1 = BitVec.ofBool s.fault ∧ slice s.status 6 2 = 0 ∧
    slice s.status 8 3 = s.ph.code ∧ slice s.status 11 21 = 0 := by
  simp only [slice, State.status]
  refine ⟨?_, ?_, ?_, ?_, ?_, ?_, ?_, ?high⟩
  case high =>
    repeat rw [BitVec.extractLsb'_append_eq_of_le (by decide)]
    exact BitVec.extractLsb'_eq_self
  all_goals
    repeat rw [BitVec.extractLsb'_append_eq_of_le (by decide)]
    exact BitVec.extractLsb'_append_eq_right

/-! ### `RDREG` -/

/-- The statements' name for a presented response is the model's `emit` (rules R12 and R97). -/
theorem State.withAnswer_eq_emitRsp (s : State) (a : BitVec 8) (d : Reg32) : s.withAnswer a d = s.emitRsp a d := rfl

/-- Every engine state accepts `RDREG` (rule R240), so a readable index is answered with its register as it stands and nothing
else changes (rule R242). -/
theorem exec_rdreg_of_readReg {idx : BitVec 8} {s : State} {v : Reg32} (hidx : readIndex idx = true)
    (hv : s.readReg idx = some v) : exec (.rdreg idx) s = .next (s.withAnswer statusOk v) := by
  have hlegal : restricted (.rdreg idx) = none := (restricted_eq_none_iff _).2 hidx
  have hanswer : answerRegister idx s = s.emitRsp statusOk v := by simp [answerRegister, hv]
  calc exec (.rdreg idx) s
      = s.command (.rdreg idx) (.next (answerRegister idx s)) := rfl
    _ = .next (answerRegister idx s) := State.command_own _ hlegal rfl
    _ = .next (s.withAnswer statusOk v) := by rw [hanswer, State.withAnswer_eq_emitRsp]

/-- Index 0x10 is `STATUS` (rule R36). -/
theorem State.readReg_status (s : State) : s.readReg 0x10 = some s.status := rfl

/-- Settles O13: each field is an operand of the word `State.status` concatenates, and index 0x10 is readable and names it. -/
theorem statusRegisterLayout : Obligations.StatusRegisterLayout := by
  intro s
  obtain ⟨hst, hpending, hactive, hretry, hfault, hzero, hph, hhigh⟩ := s.status_fields
  refine ⟨?st, hpending, ?active, hretry, hfault, hzero, ?ph, hhigh, exec_rdreg_of_readReg rfl s.readReg_status⟩
  case st => rw [hst]; cases s.st <;> rfl
  case active => rw [hactive]; cases s.active <;> rfl
  case ph => rw [hph]; cases s.ph <;> rfl

/-! ### Reset (rule R44) -/

/-- `ST`, `ACTIVE` and `PH` have the code 0 and every flag of the word is clear. -/
theorem State.status_reset : State.reset.status = 0 := by decide

/-- Every readable register is zero after reset: the banks `CFG` and `ACT`, the counters, `FAULT_INFO`, `CUR` and `STATUS`. -/
theorem State.registerMap_reset {e : BitVec 8 × Reg32} (he : e ∈ State.reset.registerMap) : e.2 = 0 := by
  have hcfg : State.reset.cfg = ⟨0, 0, 0, 0, 0, 0, 0⟩ := rfl
  have hact : State.reset.act = ⟨0, 0, 0, 0, 0, 0, 0⟩ := rfl
  have hcounters : State.reset.oobCount = 0 ∧ State.reset.faultCount = 0 ∧ State.reset.faultInfo = 0 := ⟨rfl, rfl, rfl⟩
  have hcur : State.reset.cur = 0 := rfl
  have hzero : ∀ v ∈ State.reset.registerMap.map Prod.snd, v = 0 := by
    simp [State.registerMap, State.status_reset, hcfg, hact, hcounters, hcur]
  exact hzero e.2 (List.mem_map_of_mem he)

/-- Settles O14: the flags, the pointers and the pins are fields of `State.reset`, `irq_fault` and `cmd_ready` are functions
of two of the flags, and the readable registers are zero by `State.registerMap_reset`. -/
theorem resetLeavesTheStatedValues : Obligations.ResetLeavesTheStatedValues := by
  have hpins : State.reset.pins = Pins.idle 0 := rfl
  have hirq : State.reset.irqFault = State.reset.fault := rfl
  have hready : State.reset.cmdReady = !State.reset.stopReq := rfl
  exact ⟨rfl, rfl, rfl, rfl, rfl, rfl, rfl, rfl, rfl, fun _ he => State.registerMap_reset he, hpins, hirq, hready, rfl⟩

end Sys2Proof.Machine
end

section
/-! The packed image of a descriptor record (rule R104). -/

namespace Sys2Proof.Machine

/-- The fields of rule R104 at their bits: each is one operand of the concatenation that makes the image, so once the
operands below it are dropped, it is all of the lowest operand left. -/
theorem Descriptor.image_fields (d : Descriptor) :
    slice d.image 0 32 = d.srcOff ∧ slice d.image 32 16 = d.len ∧ slice d.image 48 16 = d.next ∧
    slice d.image 64 48 = d.hold ∧ slice d.image 112 5 = d.row ∧ slice d.image 117 4 = d.plane ∧
    slice d.image 121 1 = d.srcBuf.code ∧ slice d.image 122 1 = d.dst ∧ slice d.image 123 5 = 0#5 := by
  simp only [slice, Descriptor.image]
  refine ⟨?_, ?_, ?_, ?_, ?_, ?_, ?_, ?_, ?high⟩
  case high =>
    repeat rw [BitVec.extractLsb'_append_eq_of_le (by decide)]
    exact BitVec.extractLsb'_eq_self
  all_goals
    repeat rw [BitVec.extractLsb'_append_eq_of_le (by decide)]
    exact BitVec.extractLsb'_append_eq_right

/-- The test by which `Descriptor.ofImage` reads a buffer index inverts the encoding of rule R22. -/
theorem BufId.of_code (b : BufId) : (if b.code = 0 then BufId.A else BufId.B) = b := by
  cases b <;> rfl

/-- The packed image loses nothing of the record. -/
theorem Descriptor.ofImage_image (d : Descriptor) : Descriptor.ofImage d.image = d := by
  obtain ⟨hsrcOff, hlen, hnext, hhold, hrow, hplane, hsrcBuf, hdst, -⟩ := d.image_fields
  rw [Descriptor.ofImage, hsrcOff, hlen, hnext, hhold, hrow, hplane, hsrcBuf, hdst, BufId.of_code]

/-- Settles O5: the fields are the operands of the concatenation, and reading them back rebuilds the record. -/
theorem descriptorImageHasTheStatedLayout : Obligations.DescriptorImageHasTheStatedLayout := by
  intro d
  obtain ⟨hsrcOff, hlen, hnext, hhold, hrow, hplane, hsrcBuf, hdst, hzero⟩ := d.image_fields
  exact ⟨hsrcOff, hlen, hnext, hhold, hrow, hplane, hsrcBuf, hdst, hzero, d.ofImage_image⟩

end Sys2Proof.Machine
end

section
/-! The gamma table (spec/40_gamma_lut.md): an entry is the largest intensity that passes the test of rule R122, so everything
the file says of an entry is read off one equivalence, `le_lookup_iff_gammaTest`. -/

namespace Sys2Proof.Machine

/-! ### The test of rule R122 -/

/-- The test of rule R122 for a candidate intensity `k`, with the exponent the fraction `p / q`, the largest intensity `m` and
the input `i`. The model's test is the case `q = 256` (`gammaFits_iff_gammaTest`). -/
def GammaTest (q p m i k : Nat) : Prop := k = 0 ∨ (2 * k - 1) ^ q * 255 ^ p < (2 * m) ^ q * i ^ p

theorem gammaFits_iff_gammaTest {p m i k : Nat} :
    gammaFits (255 ^ p) ((2 * m) ^ 256 * i ^ p) k = true ↔ GammaTest 256 p m i k := by
  simp [gammaFits, GammaTest]

/-- A tie would make an odd number even. -/
theorem gammaTest_no_tie {q k : Nat} (hq : 0 < q) (hk : 0 < k) (p m i : Nat) :
    (2 * k - 1) ^ q * 255 ^ p ≠ (2 * m) ^ q * i ^ p := by
  have hodd : Odd ((2 * k - 1) ^ q * 255 ^ p) := by
    have hleft : Odd (2 * k - 1) := ⟨k - 1, by omega⟩
    have hright : Odd 255 := by decide
    exact hleft.pow.mul hright.pow
  have heven : Even ((2 * m) ^ q * i ^ p) := ((even_two_mul m).pow_of_ne_zero hq.ne').mul_right _
  exact fun htie => Nat.not_even_iff_odd.2 hodd (htie ▸ heven)

/-- Because no tie occurs, `<` in the test could be `≤`. -/
theorem gammaTest_iff_le {q k : Nat} (hq : 0 < q) (hk : 0 < k) (p m i : Nat) :
    GammaTest q p m i k ↔ (2 * k - 1) ^ q * 255 ^ p ≤ (2 * m) ^ q * i ^ p := by
  rw [GammaTest, or_iff_right hk.ne', lt_iff_le_and_ne, and_iff_left (gammaTest_no_tie hq hk p m i)]

/-- The right side of the test grows with the input. -/
theorem GammaTest.mono_input {q p m i j k : Nat} (hij : i ≤ j) (h : GammaTest q p m i k) : GammaTest q p m j k :=
  h.imp_right fun hlt => hlt.trans_le (Nat.mul_le_mul_left _ (Nat.pow_le_pow_left hij p))

/-- At the largest input the test reduces to `2k - 1 < 2m`. -/
theorem gammaTest_255_iff {q k : Nat} (hq : 0 < q) (p m : Nat) : GammaTest q p m 255 k ↔ k ≤ m := by
  have hscale : 0 < 255 ^ p := by positivity
  rw [GammaTest, Nat.mul_lt_mul_right hscale, Nat.pow_lt_pow_iff_left hq.ne']
  omega

theorem GammaTest.le_max {q p m i k : Nat} (hq : 0 < q) (hi : i ≤ 255) (h : GammaTest q p m i k) : k ≤ m :=
  (gammaTest_255_iff hq p m).1 (h.mono_input hi)

/-- With a positive exponent only the intensity 0 passes at input 0. -/
theorem gammaTest_zero_iff {q p m k : Nat} (hp : 0 < p) : GammaTest q p m 0 k ↔ k = 0 := by
  simp [GammaTest, hp.ne']

/-- The derivation in rule R122: the test says that the lower rounding boundary `k - 1/2` does not exceed the real value of
rule R121. Both sides are compared through their `q`-th powers, with the denominators multiplied out. -/
theorem gammaTest_iff_real {q : Nat} (hq : 0 < q) (p m i k : Nat) :
    GammaTest q p m i k ↔ (k : ℝ) ≤ ((i : ℝ) / 255) ^ ((p : ℝ) / (q : ℝ)) * m + 1 / 2 := by
  set x : ℝ := ((i : ℝ) / 255) ^ ((p : ℝ) / (q : ℝ)) with hx
  have hx0 : 0 ≤ x := by positivity
  rcases k.eq_zero_or_pos with rfl | hk
  · have hvalue : (0 : ℝ) ≤ x * m + 1 / 2 := by positivity
    simpa [GammaTest] using hvalue
  have hpow : x ^ q = (i : ℝ) ^ p / 255 ^ p := by
    have hq' : (q : ℝ) ≠ 0 := by exact_mod_cast hq.ne'
    rw [hx, ← Real.rpow_mul_natCast (by positivity), div_mul_cancel₀ _ hq', Real.rpow_natCast, div_pow]
  have hcast : ((2 * k - 1 : ℕ) : ℝ) = 2 * k - 1 := by
    rw [Nat.cast_pred (by omega), Nat.cast_mul, Nat.cast_ofNat]
  calc GammaTest q p m i k
      ↔ (2 * k - 1) ^ q * 255 ^ p ≤ (2 * m) ^ q * i ^ p := gammaTest_iff_le hq hk p m i
    _ ↔ ((2 * k - 1 : ℕ) : ℝ) ^ q * 255 ^ p ≤ (2 * m) ^ q * (i : ℝ) ^ p := by exact_mod_cast Iff.rfl
    _ ↔ ((2 * k - 1 : ℕ) : ℝ) ^ q ≤ (2 * m * x) ^ q := by
        rw [mul_pow _ x, hpow, ← mul_div_assoc, le_div_iff₀ (by positivity)]
    _ ↔ ((2 * k - 1 : ℕ) : ℝ) ≤ 2 * m * x := pow_le_pow_iff_left₀ (by positivity) (by positivity) hq.ne'
    _ ↔ (k : ℝ) ≤ x * m + 1 / 2 := by
        rw [hcast]
        constructor <;> intro h <;> linarith

/-- The test depends on the exponent only, not on the fraction that writes it. -/
theorem gammaTest_congr_fraction {q q' p p' : Nat} (hq : 0 < q) (hq' : 0 < q') (hfrac : p' * q = p * q') (m i k : Nat) :
    GammaTest q' p' m i k ↔ GammaTest q p m i k := by
  have hexp : (p' : ℝ) / (q' : ℝ) = (p : ℝ) / (q : ℝ) := by
    rw [div_eq_div_iff (by positivity) (by positivity)]
    exact_mod_cast hfrac
  rw [gammaTest_iff_real hq', gammaTest_iff_real hq, hexp]

/-- For an integer exponent the test bounds `k` by a quotient: `m * i^g / 255^g`, rounded half up (rule R125). -/
theorem gammaTest_one_iff_le_div (g m i k : Nat) :
    GammaTest 1 g m i k ↔ k ≤ (2 * m * i ^ g + 255 ^ g) / (2 * 255 ^ g) := by
  have hscale : 0 < 255 ^ g := by positivity
  rw [Nat.le_div_iff_mul_le (by omega)]
  rcases k.eq_zero_or_pos with rfl | hk
  · simp [GammaTest]
  · have hstep : k * (2 * 255 ^ g) = (2 * k - 1) * 255 ^ g + 255 ^ g := by
      rw [← Nat.succ_mul, show (2 * k - 1).succ = 2 * k by omega]
      ring
    rw [gammaTest_iff_le one_pos hk, pow_one, pow_one, hstep, Nat.add_le_add_iff_right]

/-! ### The search finds the largest intensity that passes -/

/-- A smaller intensity passes where a larger one does. -/
theorem gammaFits_anti {scale bound k l : Nat} (hkl : k ≤ l) (h : gammaFits scale bound l = true) :
    gammaFits scale bound k = true := by
  simp only [gammaFits, Bool.or_eq_true, beq_iff_eq, decide_eq_true_eq] at h ⊢
  rcases h with rfl | hlt
  · exact .inl (by omega)
  · have hpow : (2 * k - 1) ^ 256 ≤ (2 * l - 1) ^ 256 := Nat.pow_le_pow_left (by omega) _
    exact .inr ((Nat.mul_le_mul_right _ hpow).trans_lt hlt)

theorem gammaFits_gammaSearch {scale bound k : Nat} (b : Nat) (h : gammaFits scale bound k = true) :
    gammaFits scale bound (gammaSearch scale bound k b) = true := by
  induction b generalizing k with
  | zero => exact h
  | succ b ih =>
    rw [gammaSearch]
    split
    case isTrue hbit => exact ih hbit
    case isFalse => exact ih h

/-- Nothing in the reach of the search that passes exceeds its answer: a bit is left clear only if no number with it set
passes. -/
theorem le_gammaSearch {scale bound k j b : Nat} (hj : j < k + 2 ^ b) (h : gammaFits scale bound j = true) :
    j ≤ gammaSearch scale bound k b := by
  induction b generalizing k with
  | zero => exact Nat.le_of_lt_succ hj
  | succ b ih =>
    rw [gammaSearch]
    split
    case isTrue => exact ih (by rw [Nat.pow_succ] at hj; omega)
    case isFalse hbit => exact ih (lt_of_not_ge fun hle => hbit (gammaFits_anti hle h))

/-- The intensities that pass at a depth are those up to the entry. -/
theorem le_gammaEntry_iff {p n i k : Nat} (hi : i ≤ 255) :
    k ≤ gammaEntry p n i ↔ GammaTest 256 p (2 ^ n - 1) i k := by
  rw [← gammaFits_iff_gammaTest]
  constructor
  · exact fun hle => gammaFits_anti hle (gammaFits_gammaSearch n rfl)
  · intro hfits
    have hmax : k ≤ 2 ^ n - 1 := (gammaFits_iff_gammaTest.1 hfits).le_max (by decide) hi
    have hpos : 0 < 2 ^ n := by positivity
    exact le_gammaSearch (by omega) hfits

/-! ### The entries of the table of a legal configuration -/

theorem ConfigRegs.Legal.depth_le {b : Params} {c : ConfigRegs} (h : c.Legal b) : c.depth.toNat ≤ 16 := by
  obtain ⟨-, -, ⟨-, hdepth⟩, -⟩ := h
  exact hdepth

theorem ConfigRegs.Legal.gammaRaw_pos {b : Params} {c : ConfigRegs} (h : c.Legal b) (ch : Channel) : 0 < c.gammaRaw ch := by
  obtain ⟨-, -, -, ⟨hred, -⟩, ⟨hgreen, -⟩, ⟨hblue, -⟩, -⟩ := h
  cases ch
  case red => exact hred
  case green => exact hgreen
  case blue => exact hblue

/-- An entry of the table is the largest intensity that passes the test of rule R122. -/
theorem le_lookup_iff_gammaTest {b : Params} {c : ConfigRegs} (hc : c.Legal b) (ch : Channel) (i : BitVec 8) {k : Nat} :
    k ≤ ((buildTable c).lookup ch i).toNat ↔ GammaTest 256 (c.gammaRaw ch) (2 ^ c.depth.toNat - 1) i.toNat k := by
  have hi : i.toNat ≤ 255 := Nat.le_of_lt_succ i.isLt
  rw [buildTable_lookup hc.depth_le]
  exact le_gammaEntry_iff hi

/-- Every entry is at most M (rule R124). -/
theorem lookup_le_max {b : Params} {c : ConfigRegs} (hc : c.Legal b) (ch : Channel) (i : BitVec 8) :
    ((buildTable c).lookup ch i).toNat ≤ 2 ^ c.depth.toNat - 1 := by
  rw [buildTable_lookup hc.depth_le]
  exact Nat.le_sub_one_of_lt (gammaEntry_lt ..)

/-- Settles O50: the entry passes its own test, and whatever passes is at most the entry. -/
theorem gammaEntryIsTheLargestFit : Obligations.GammaEntryIsTheLargestFit := by
  intro b c ch i hc
  refine ⟨lookup_le_max hc ch i, ?passes, ?largest, ?fraction, ?noTie⟩
  case passes => exact (le_lookup_iff_gammaTest hc ch i).1 le_rfl
  case largest => exact fun k _ hfits => (le_lookup_iff_gammaTest hc ch i).2 hfits
  case fraction => exact fun k p' q' hq' hfrac => gammaTest_congr_fraction (by decide) hq' hfrac _ _ k
  case noTie => exact fun k hk => gammaTest_no_tie (by decide) hk _ _ _

/-- Settles O51: rounding is the floor of the real value plus 1/2, and a natural number is below that floor exactly if it
passes the test. -/
theorem gammaEntryIsTheRoundedPower : Obligations.GammaEntryIsTheRoundedPower := by
  intro b c ch i hc
  set x : ℝ := ((i.toNat : ℝ) / 255) ^ ((c.gammaRaw ch : ℝ) / 256) * ((2 : ℝ) ^ c.depth.toNat - 1) with hx
  have hmax : ((2 ^ c.depth.toNat - 1 : ℕ) : ℝ) = (2 : ℝ) ^ c.depth.toNat - 1 := by
    rw [Nat.cast_pred (by positivity), Nat.cast_pow, Nat.cast_ofNat]
  have hx0 : 0 ≤ x + 1 / 2 := by
    rw [hx, ← hmax]
    positivity
  have hfloor : ((buildTable c).lookup ch i).toNat = ⌊x + 1 / 2⌋₊ := by
    refine eq_of_forall_le_iff fun k => ?_
    rw [le_lookup_iff_gammaTest hc, gammaTest_iff_real (by decide), Nat.le_floor_iff hx0, hmax, Nat.cast_ofNat]
  rw [round_eq, hfloor, Int.natCast_floor_eq_floor hx0]

/-- Settles O52: at input 0 only 0 passes, because a legal exponent is positive; at input 255 everything up to M passes. -/
theorem gammaEndPointsAreExact : Obligations.GammaEndPointsAreExact := by
  intro b c ch hc
  refine ⟨BitVec.eq_of_toNat_eq ?atZero, (lookup_le_max hc ch 255).antisymm ?atTop⟩
  case atZero => exact (gammaTest_zero_iff (hc.gammaRaw_pos ch)).1 ((le_lookup_iff_gammaTest hc ch 0).1 le_rfl)
  case atTop => exact (le_lookup_iff_gammaTest hc ch 255).2 ((gammaTest_255_iff (by decide) _ _).2 le_rfl)

/-- Settles O53: the entry of the smaller input passes the test of the larger one, and the entry is a function of the
exponent, the depth and the input. -/
theorem gammaTableIsMonotone : Obligations.GammaTableIsMonotone := by
  intro b c ch hc
  refine ⟨?monotone, lookup_le_max hc ch, ?independent⟩
  case monotone =>
    intro i j hij
    have hpasses := (le_lookup_iff_gammaTest hc ch i).1 le_rfl
    exact (le_lookup_iff_gammaTest hc ch j).2 (hpasses.mono_input hij.le)
  case independent =>
    intro c' ch' i hgamma hdepth
    have hplanes : c'.planes = c.planes := congrArg BitVec.toNat hdepth
    apply BitVec.eq_of_toNat_eq
    rw [buildTable_lookup (hdepth ▸ hc.depth_le), buildTable_lookup hc.depth_le, hgamma, hplanes]

/-- Settles O54: the exponent `256 * g / 256` is also the fraction `g / 1`, for which the test is a bound by a quotient. -/
theorem gammaClosedFormForIntegerExponents : Obligations.GammaClosedFormForIntegerExponents := by
  intro b c ch i g hc hg
  refine eq_of_forall_le_iff fun k => ?_
  have hfrac : c.gammaRaw ch * 1 = g * 256 := by rw [hg, mul_one, mul_comm]
  rw [le_lookup_iff_gammaTest hc, gammaTest_congr_fraction one_pos (by decide) hfrac, gammaTest_one_iff_le_div]

end Sys2Proof.Machine
end

section
/-! The bounds check of `SETPX` (spec/41_bitplane_encoder.md): a built engine follows the command's own rule, and a pixel
outside the panel in either coordinate only counts (rule R142). -/

namespace Sys2Proof.Machine

/-- Every state but `Uninitialized` accepts `SETPX` (rule R240). -/
theorem accepts_setpx (x y : BitVec 16) (red green blue : BitVec 8) {st : EngineState} (hst : st ≠ .uninitialized) :
    accepts (.setpx x y red green blue) st = true := by
  cases st
  case uninitialized => exact absurd rfl hst
  case ready => rfl
  case running => rfl
  case stopped => rfl

/-- No operand of `SETPX` is restricted (rule R93), so in a built engine the command follows its own rule (rule R95). -/
theorem exec_setpx {s : State} (hst : s.st ≠ .uninitialized) (x y : BitVec 16) (red green blue : BitVec 8) :
    exec (.setpx x y red green blue) s = setpxOwn x y red green blue s :=
  State.command_own _ rfl (accepts_setpx x y red green blue hst)

/-- The check covers both coordinates: one of them past its limit is enough to fail it (rule R142). -/
theorem ConfigRegs.inBounds_eq_false_iff (c : ConfigRegs) (x y : BitVec 16) :
    c.inBounds x y = false ↔ c.columns.toNat ≤ x.toNat ∨ c.rows.toNat ≤ y.toNat := by
  simp only [ConfigRegs.inBounds, Bool.and_eq_false_iff, decide_eq_false_iff_not, not_lt]

/-- The rule of `SETPX` for a pixel that fails the bounds check. -/
theorem setpxOwn_of_not_inBounds {s : State} {x y : BitVec 16} (h : s.act.inBounds x y = false)
    (red green blue : BitVec 8) : setpxOwn x y red green blue s = .next s.outOfBounds := by
  simp [setpxOwn, h]

/-- Counting writes `OOB_COUNT` alone, the count stops at its maximum, and the error's code is 0x02 (rules R98 and R142). -/
theorem State.outOfBounds_eq (s : State) :
    s.outOfBounds =
      { s with oobCount := BitVec.ofNat 32 (min (s.oobCount.toNat + 1) (2 ^ 32 - 1)) }.withAnswer 0x02 0 := rfl

/-- Settles O22: a coordinate past its limit fails the bounds check, and the branch the command then takes only counts. -/
theorem setpxOutOfBoundsOnlyCounts : Obligations.SetpxOutOfBoundsOnlyCounts := by
  intro s x y red green blue hst hout
  have hcheck : s.act.inBounds x y = false := (s.act.inBounds_eq_false_iff x y).2 hout
  calc exec (.setpx x y red green blue) s
      = setpxOwn x y red green blue s := exec_setpx hst ..
    _ = .next s.outOfBounds := setpxOwn_of_not_inBounds hcheck ..
    _ = _ := by rw [s.outOfBounds_eq]

end Sys2Proof.Machine
end

section
/-! The schedule pointer (spec/43_descriptor_chain.md, rule R190): what a command, the background agent and a `TIMEOUT` do to
`CUR`, and that no other turn writes it. -/

namespace Sys2Proof.Machine

/-! ### A command is its own rule behind the guard of rule R95 -/

/-- What a command does once its operands are legal and the engine state accepts it. -/
def ownRule (s : State) : Instr → Host.Outcome State Fault Refusal
  | .wrcfg idx value => .next (writeConfig idx value s)
  | .rdreg idx => .next (answerRegister idx s)
  | .init => .next (initialise s)
  | .lookup ch val => .next (lookupAnswer ch val s)
  | .setpx x y red green blue => setpxOwn x y red green blue s
  | .clear => .next (s.clearWritable.respond 0)
  | .commit => .next ({ s with pending := true }.respond 0)
  | .start => .next (s.startChain.respond 0)
  | .stop => .next { s with stopReq := true }

theorem exec_eq_command (i : Instr) (s : State) : exec i s = s.command i (ownRule s i) := by
  cases i <;> rfl

/-- What a command word at the port can do (rules R90 and R95): wait behind a `STOP`, be illegal, or be executed. -/
theorem takeTurn_command_next {w : Word64} {s t : State} (h : takeTurn (.command w) s = .next t) :
    t = s ∨ t = { s with cmd := w }.illegal ∨ ∃ i, decode w = .ok i ∧ exec i { s with cmd := w } = .next t := by
  simp only [takeTurn, offerCommand, executeWord] at h
  split at h
  case isFalse => cases h; exact .inl rfl
  case isTrue =>
    split at h
    case h_1 i hdecode => exact .inr (.inr ⟨i, hdecode, h⟩)
    case h_2 => cases h; exact .inr (.inl rfl)

/-! ### What the commands do to `CUR` -/

@[simp] theorem writeConfig_cur (idx : BitVec 8) (v : Reg32) (s : State) : (writeConfig idx v s).cur = s.cur := by
  unfold writeConfig; split <;> rfl

@[simp] theorem answerRegister_cur (idx : BitVec 8) (s : State) : (answerRegister idx s).cur = s.cur := by
  unfold answerRegister; split <;> rfl

@[simp] theorem lookupAnswer_cur (ch : BitVec 2) (v : BitVec 8) (s : State) : (lookupAnswer ch v s).cur = s.cur := by
  unfold lookupAnswer; split <;> rfl

theorem setpxOwn_keeps_cur {x y : BitVec 16} {red green blue : BitVec 8} {s t : State}
    (h : setpxOwn x y red green blue s = .next t) : t.cur = s.cur := by
  unfold setpxOwn at h
  split at h
  case isFalse => cases h; rfl
  case isTrue =>
    split at h
    case isFalse => cases h
    case isTrue => cases h; simp [State.setPixel]

/-- `INIT` either fails a check and writes nothing, or builds a legal configuration with the chain at its start (rule R243). -/
theorem initialise_cur (s : State) :
    (initialise s).cur = s.cur ∨ ((initialise s).cur = 0 ∧ s.cfg.Legal s.params) := by
  unfold initialise
  split
  case h_1 => exact .inl rfl
  case h_2 hcheck => exact .inr ⟨rfl, ConfigRegs.failedCheck_eq_none_iff.1 hcheck⟩

/-- Only `START` and a successful `INIT` write `CUR`, and both write 0; `STOP` is not among them (rule R190). -/
theorem ownRule_cur {i : Instr} {s t : State} (h : ownRule s i = .next t) :
    t.cur = s.cur ∨ (t.cur = 0 ∧ (i = .start ∨ (i = .init ∧ s.cfg.Legal s.params))) := by
  cases i with
  | init =>
    cases h
    exact (initialise_cur s).imp_right fun ⟨hcur, hlegal⟩ => ⟨hcur, .inr ⟨rfl, hlegal⟩⟩
  | start => cases h; exact .inr ⟨rfl, .inl rfl⟩
  | wrcfg idx value => cases h; exact .inl (writeConfig_cur ..)
  | rdreg idx => cases h; exact .inl (answerRegister_cur ..)
  | lookup ch val => cases h; exact .inl (lookupAnswer_cur ..)
  | setpx x y red green blue => exact .inl (setpxOwn_keeps_cur h)
  | clear => cases h; exact .inl (s.withBuf_cur ..)
  | commit => cases h; exact .inl rfl
  | stop => cases h; exact .inl rfl

/-- The engine states that accept `START` (rule R240). -/
theorem accepts_start_iff {st : EngineState} : accepts .start st = true ↔ st = .ready ∨ st = .stopped := by
  cases st <;> simp [accepts]

/-- The engine states that accept `INIT` (rule R240). -/
theorem accepts_init_iff {st : EngineState} : accepts .init st = true ↔ st ≠ .running := by
  cases st <;> simp [accepts]

/-- What a command does to `CUR`, with the engine state that let it. -/
theorem exec_cur {i : Instr} {s t : State} (h : exec i s = .next t) :
    t.cur = s.cur ∨
    (t.cur = 0 ∧ ((i = .start ∧ (s.st = .ready ∨ s.st = .stopped)) ∨
      (i = .init ∧ s.st ≠ .running ∧ s.cfg.Legal s.params))) := by
  rw [exec_eq_command] at h
  obtain ⟨a, d, rfl⟩ | ⟨-, hacc, hown⟩ := State.command_next h
  · exact .inl rfl
  · obtain hkeep | ⟨hzero, rfl | ⟨rfl, hlegal⟩⟩ := ownRule_cur hown
    · exact .inl hkeep
    · exact .inr ⟨hzero, .inl ⟨rfl, accepts_start_iff.1 hacc⟩⟩
    · exact .inr ⟨hzero, .inr ⟨rfl, accepts_init_iff.1 hacc, hlegal⟩⟩

/-! ### What the other agents do to `CUR` -/

@[simp] theorem State.boundary_cur (s : State) : s.boundary.cur = s.cur := by
  unfold State.boundary; split <;> rfl

theorem State.loadDescriptor_keeps_cur {s t : State} (h : s.loadDescriptor = .next t) : t.cur = s.cur := by
  obtain ⟨d, -, hload⟩ | ⟨-, hload⟩ := s.loadDescriptor_cases
  · rw [hload] at h; cases h; rfl
  · rw [hload] at h; cases h

/-- Of the background agent's steps only `BG_DONE` writes `CUR`: it takes the link of the descriptor in flight (rule R189). -/
theorem background_cur {s t : State} (h : background s = .next t) :
    t.cur = s.cur ∨ (s.ph = .done ∧ t.cur = s.dreg.next) := by
  obtain ⟨-, rfl⟩ | ⟨-, -, rfl⟩ | ⟨-, -, -, rfl⟩ | ⟨-, -, -, hfetch⟩ | ⟨-, -, rfl⟩ | ⟨-, hlatch⟩ | ⟨-, hhold⟩ |
    ⟨hph, hdone⟩ := background_next h
  · exact .inl rfl
  · exact .inl rfl
  · exact .inl s.honourStop_cur
  · exact .inl ((State.loadDescriptor_keeps_cur hfetch).trans s.boundary_cur)
  · exact .inl s.shiftOne_cur
  · cases hlatch; exact .inl rfl
  · cases hhold; exact .inl rfl
  · cases hdone; exact .inr ⟨hph, rfl⟩

/-- An escalation leaves `CUR` at the descriptor that was in flight (rules R190 and R278). -/
@[simp] theorem State.escalate_cur (s : State) : s.escalate.cur = s.cur := by
  obtain ⟨-, hesc⟩ | ⟨-, hesc⟩ := s.escalate_cases <;> simp [hesc]

/-- Of the outcomes of a `TIMEOUT` only the restart writes `CUR` (rules R276 to R278). -/
theorem State.timeout_cur (s : State) :
    s.timeout.cur = s.cur ∨
    (s.timeout.cur = 0 ∧ s.st = .running ∧ s.ph.inFlight = true ∧ s.retryUsed = false) := by
  obtain ⟨-, hout⟩ | ⟨henabled, hretry, hout⟩ | ⟨-, -, hout⟩ := s.timeout_cases
  · exact .inl (by rw [hout])
  · obtain ⟨hst, hph⟩ := s.timeoutEnabled_iff.1 henabled
    exact .inr ⟨by rw [hout, State.restart_cur], hst, hph, hretry⟩
  · exact .inl (by simp [hout])

/-- Settles O46: turn by turn; under the invariant `DREG` is the descriptor `CUR` names, so its link is `(CUR + 1) mod D`. -/
theorem curChangesOnlyAsListed : Obligations.CurChangesOnlyAsListed := by
  intro tn s t hinv h
  cases tn with
  | command w =>
    obtain rfl | rfl | ⟨i, hdecode, hexec⟩ := takeTurn_command_next h
    · exact .inl rfl
    · exact .inl rfl
    · obtain hkeep | ⟨hzero, ⟨rfl, hst⟩ | ⟨rfl, hst, hlegal⟩⟩ := exec_cur hexec
      · exact .inl hkeep
      · exact .inr (.inr ⟨hzero, .inr (.inl ⟨w, rfl, hdecode, hst⟩)⟩)
      · exact .inr (.inr ⟨hzero, .inr (.inr (.inr ⟨w, rfl, hdecode, hst, hlegal⟩))⟩)
  | background =>
    obtain hkeep | ⟨hph, hcur⟩ := background_cur h
    · exact .inl hkeep
    · obtain ⟨-, -, -, -, -, hnext⟩ := hinv.inFlight (by rw [hph]; rfl)
      exact .inr (.inl ⟨rfl, hph, hcur, by rw [hcur, hnext]⟩)
  | timeout =>
    cases h
    exact s.timeout_cur.imp_right fun ⟨hzero, hfirst⟩ => .inr ⟨hzero, .inr (.inr (.inl ⟨rfl, hfirst⟩))⟩
  | reset =>
    cases h
    exact .inr (.inr ⟨rfl, .inl rfl⟩)

end Sys2Proof.Machine
end

section
/-! The duty-cycle law (spec/43_descriptor_chain.md, rule R185): over the records of a complete cycle, a channel of a pixel is
lit for exactly its intensity times `base_tick`. -/

namespace Sys2Proof.Machine

/-! ### Sums over the ring -/

/-- A sum over `h` rows of `n` numbers each, row by row. -/
theorem sum_range_mul (h n : Nat) (g : Nat → Nat) :
    ((List.range (h * n)).map g).sum =
      ((List.range h).map fun q => ((List.range n).map fun b => g (q * n + b)).sum).sum := by
  induction h with
  | zero => simp
  | succ h ih => simp [Nat.succ_mul, List.range_add, List.range_succ, ih, Function.comp_def]

/-- A sum over `h` rows of `n` numbers each in which one row alone counts is that row's sum. -/
theorem sum_range_mul_of_div_eq {h n r : Nat} (hr : r < h) (f : Nat → Nat) :
    ((List.range (h * n)).map fun d => if d / n = r then f (d % n) else 0).sum = ((List.range n).map f).sum := by
  have hdigits : ∀ q, ∀ b ∈ List.range n,
      (if (q * n + b) / n = r then f ((q * n + b) % n) else 0) = if q = r then f b else 0 := by
    intro q b hb
    have hlt : b < n := List.mem_range.1 hb
    have hn : 0 < n := by omega
    rw [Nat.mul_add_mod_of_lt hlt, Nat.mul_comm q n, Nat.mul_add_div hn, Nat.div_eq_of_lt hlt, Nat.add_zero]
  have hrow : ∀ q ∈ List.range h,
      ((List.range n).map fun b => if (q * n + b) / n = r then f ((q * n + b) % n) else 0).sum =
        if q = r then ((List.range n).map f).sum else 0 := by
    intro q _
    rw [List.map_congr_left (hdigits q)]
    split <;> simp
  rw [sum_range_mul, List.map_congr_left hrow]
  exact (Finset.sum_ite_eq' (Finset.range h) r _).trans (if_pos (Finset.mem_range.2 hr))

/-! ### The light of one record -/

/-- Column `x` of the pulse of descriptor `d` is the word of scan row `d / N` and plane `d % N` (rules R61 and R181). -/
theorem pulseFor_word {c : ConfigRegs} {m : Memory} {x : Nat} (hx : x < c.columns.toNat) (d : Nat) :
    ((List.range c.columns.toNat).map fun x => m.readWord (d * c.columns.toNat + x)).getD x 0 =
      m.readWord (c.wordAddr (d / c.planes) (d % c.planes) x) := by
  rw [ConfigRegs.wordAddr, Nat.div_add_mod', List.getD_eq_getElem?_getD]
  simp [hx]

/-- The periods for which plane `b` lights channel `ch` of pixel (x, y): its hold, if the pixel's bit is set in that plane. -/
def ConfigRegs.planeTicks (c : ConfigRegs) (m : Memory) (x y : Nat) (ch : Channel) (b : Nat) : Nat :=
  if c.pixelBit y ch (m.readWord (c.wordAddr (c.scanRowOf y) b x)) = true then c.holdOf b else 0

/-- The pulse of descriptor `d` lights a pixel only if it is of the pixel's scan row, and then as its plane says. -/
theorem litBy_pulseFor {p : Params} {c : ConfigRegs} (hp : p.Legal) (hc : c.Legal p) (k : BufId) (m : Memory)
    {x : Nat} (hx : x < c.columns.toNat) (y : Nat) (ch : Channel) {d : Nat} (hd : d < c.descriptors) :
    c.litBy x y ch (pulseFor c k m d) =
      if d / c.planes = c.scanRowOf y then c.planeTicks m x y ch (d % c.planes) else 0 := by
  obtain ⟨hrows, hcols, hdepth⟩ := hc.bounds hp
  obtain ⟨-, -, -, hrow, -, hhold, -⟩ := descriptorFor_values hrows hcols hdepth k hd
  simp only [descriptorFor] at hrow hhold
  simp only [pulseFor, ConfigRegs.litBy, ConfigRegs.planeTicks, pulseFor_word hx, hrow, hhold, ite_and]
  split
  case isTrue hscan => rw [hscan]
  case isFalse => rfl

/-- The planes' holds are weighted by their powers of two, so over all planes they add up to the intensity (rule R144). -/
theorem sum_planeTicks (c : ConfigRegs) (m : Memory) (x y : Nat) (ch : Channel) :
    ((List.range c.planes).map (c.planeTicks m x y ch)).sum = c.pixelIntensity m x y ch * c.baseTick.toNat := by
  have hplane : ∀ b, c.planeTicks m x y ch b =
      (c.pixelBit y ch (m.readWord (c.wordAddr (c.scanRowOf y) b x))).toNat * 2 ^ b * c.baseTick.toNat := by
    intro b
    cases hbit : c.pixelBit y ch (m.readWord (c.wordAddr (c.scanRowOf y) b x))
    case false => simp [ConfigRegs.planeTicks, hbit]
    case true => simp [ConfigRegs.planeTicks, hbit, ConfigRegs.holdOf, Nat.mul_comm]
  rw [ConfigRegs.pixelIntensity, ← List.sum_map_mul_right, List.map_congr_left fun b _ => hplane b]

/-- Settles O57: of the D records only those of the pixel's scan row light it, one for each plane. -/
theorem dutyCycleIsExact : Obligations.DutyCycleIsExact := by
  intro p c k m x y ch hp hc hx _
  have hlight : ∀ d ∈ List.range c.descriptors, (c.litBy x y ch ∘ pulseFor c k m) d =
      if d / c.planes = c.scanRowOf y then c.planeTicks m x y ch (d % c.planes) else 0 :=
    fun d hd => litBy_pulseFor hp hc k m hx y ch (List.mem_range.1 hd)
  have hscan : c.scanRowOf y < c.scanRows := Nat.mod_lt _ hc.scanRows_pos
  calc c.litTicks x y ch (cycleRecords c k m)
      = ((List.range c.descriptors).map fun d =>
          if d / c.planes = c.scanRowOf y then c.planeTicks m x y ch (d % c.planes) else 0).sum := by
        rw [ConfigRegs.litTicks, cycleRecords, List.map_map, List.map_congr_left hlight]
    _ = ((List.range c.planes).map (c.planeTicks m x y ch)).sum := sum_range_mul_of_div_eq hscan _
    _ = c.pixelIntensity m x y ch * c.baseTick.toNat := sum_planeTicks c m x y ch

end Sys2Proof.Machine
end

section
/-! The acceptance matrix (spec/45_engine_control.md, rule R240): the guard of rule R95 answers `StateError` exactly in the cells
the matrix refuses, because no command's own rule answers with that status. -/

namespace Sys2Proof.Machine

/-! ### The guard of rule R95 and the matrix -/

/-- The model's matrix and the spec's agree in every cell, command by engine state. -/
theorem accepts_iff_mem_acceptedIn (i : Instr) (st : EngineState) : accepts i st = true ↔ st ∈ acceptedIn i := by
  cases i <;> cases st <;> simp [accepts, acceptedIn]

/-- The guard tests the operands before the engine state (rule R95), so a refusal by the state is for legal operands only. -/
theorem State.command_stateError {s : State} {i : Instr} (own : Host.Outcome State Fault Refusal)
    (hr : restricted i = none) (ha : accepts i s.st = false) : s.command i own = .next s.stateError := by
  simp [State.command, hr, ha]

/-! ### What a command's own rule answers -/

/-- `t` continues `s` by one response, whose status is not `StateError`. -/
def State.AnsweredBy (s t : State) : Prop :=
  ∃ (a : BitVec 8) (d : Reg32), a ≠ ErrorKind.stateError.code ∧ t.observed = s.observed ++ [.rsp a d]

/-- A response given after an update that leaves the observation alone. -/
theorem State.answeredBy_emitRsp {s u : State} {a : BitVec 8} (d : Reg32) (ha : a ≠ ErrorKind.stateError.code)
    (hu : u.observed = s.observed) : s.AnsweredBy (u.emitRsp a d) :=
  ⟨a, d, ha, by rw [State.emitRsp_observed, hu]⟩

theorem State.answeredBy_respond {s u : State} (d : Reg32) (hu : u.observed = s.observed) : s.AnsweredBy (u.respond d) :=
  State.answeredBy_emitRsp d (by decide) hu

theorem State.answeredBy_illegal (s : State) : s.AnsweredBy s.illegal := State.answeredBy_emitRsp 0 (by decide) rfl

theorem setpxOwn_answeredBy {x y : BitVec 16} {red green blue : BitVec 8} {s t : State}
    (h : setpxOwn x y red green blue s = .next t) : s.AnsweredBy t := by
  unfold setpxOwn at h
  split at h
  case isFalse => cases h; exact State.answeredBy_emitRsp 0 (by decide) rfl
  case isTrue =>
    split at h
    case isFalse => cases h
    case isTrue => cases h; exact State.answeredBy_respond 0 (s.withBuf_observed ..)

/-- `STOP` waits without a response (rule R246); every other command answers at once, with `OK` or an error of its own rule. -/
theorem ownRule_answeredBy {i : Instr} {s t : State} (h : ownRule s i = .next t) :
    (i = .stop ∧ t.observed = s.observed) ∨ s.AnsweredBy t := by
  cases i with
  | stop => cases h; exact .inl ⟨rfl, rfl⟩
  | wrcfg idx value =>
    cases h
    unfold writeConfig
    split
    case h_1 => exact .inr (State.answeredBy_respond 0 rfl)
    case h_2 => exact .inr s.answeredBy_illegal
  | rdreg idx =>
    cases h
    unfold answerRegister
    split
    case h_1 v _ => exact .inr (State.answeredBy_respond v rfl)
    case h_2 => exact .inr s.answeredBy_illegal
  | init =>
    cases h
    unfold initialise
    split
    case h_1 => exact .inr (State.answeredBy_emitRsp _ (by decide) rfl)
    case h_2 => exact .inr (State.answeredBy_respond 0 s.build_observed)
  | lookup ch val =>
    cases h
    unfold lookupAnswer
    split
    case h_1 => exact .inr (State.answeredBy_respond _ rfl)
    case h_2 => exact .inr s.answeredBy_illegal
  | setpx x y red green blue => exact .inr (setpxOwn_answeredBy h)
  | clear => cases h; exact .inr (State.answeredBy_respond 0 (s.withBuf_observed ..))
  | commit => cases h; exact .inr (State.answeredBy_respond 0 rfl)
  | start => cases h; exact .inr (State.answeredBy_respond 0 s.startChain_observed)

/-- A status other than `StateError` tells the two observations apart. -/
theorem State.AnsweredBy.observed_ne {s t : State} (h : s.AnsweredBy t) (d : Reg32) :
    t.observed ≠ s.observed ++ [.rsp ErrorKind.stateError.code d] := by
  obtain ⟨a, e, ha, hobs⟩ := h
  simp [hobs, ha]

/-- Settles O10: legal operands leave the decision to the matrix; where it refuses the guard answers `StateError`, and where it
accepts the command's own rule answers, which never does. -/
theorem acceptanceMatrixDecidesStateErrors : Obligations.AcceptanceMatrixDecidesStateErrors := by
  intro i s hwf
  have hlegal : restricted i = none := (restricted_eq_none_iff i).2 hwf
  refine ⟨fun hrefused => ?_, fun haccepted t d h => ?_⟩
  · have hacc : accepts i s.st = false :=
      Bool.eq_false_iff.2 fun hacc => hrefused ((accepts_iff_mem_acceptedIn i s.st).1 hacc)
    rw [exec_eq_command, State.command_stateError _ hlegal hacc, State.stateError_eq, State.withAnswer_eq_emitRsp]
    congr 2
    cases s.st <;> rfl
  · rw [exec_eq_command, State.command_own _ hlegal ((accepts_iff_mem_acceptedIn i s.st).2 haccepted)] at h
    obtain ⟨-, hsilent⟩ | hanswer := ownRule_answeredBy h
    · simp [hsilent]
    · exact hanswer.observed_ne d

end Sys2Proof.Machine
end

section
/-! The command word as a code (rules R92 to R96): a command's fields are the operands of its word's concatenation, a word is
the concatenation of its fields, and the two directions together say which words the decoder accepts. -/

namespace Sys2Proof

open Machine

/-! ### The fields of a command's word -/

/-- Two fields that adjoin are one field (rule R14). -/
theorem slice_append_slice {w hi lo len len' : Nat} (v : BitVec w) (h : hi = lo + len') :
    slice v hi len ++ slice v lo len' = slice v lo (len + len') := by
  subst h
  apply BitVec.eq_of_getLsbD_eq
  intro i hi
  simp only [slice, BitVec.getLsbD_append, BitVec.getLsbD_extractLsb']
  split
  case isTrue hlow => simp [hlow, hi]
  case isFalse hhigh =>
    have hlen : i - len' < len := by omega
    have hbit : lo + len' + (i - len') = lo + i := by omega
    simp [hlen, hi, hbit]

/-- A field under the mask of a row of the opcode map is the row's (rule R93). -/
theorem slice_eq_of_masked {w mask pattern : Word64} (h : w &&& mask = pattern) (lo len : Nat)
    (hmask : slice mask lo len = BitVec.allOnes len) : slice w lo len = slice pattern lo len := by
  rw [← h, slice, slice, BitVec.extractLsb'_and, show BitVec.extractLsb' lo len mask = _ from hmask, BitVec.and_allOnes]

theorem encode_wrcfg_fields (idx : BitVec 8) (value : BitVec 32) :
    slice (encode (.wrcfg idx value)) 56 8 = 0x01 ∧ slice (encode (.wrcfg idx value)) 48 8 = idx ∧
    slice (encode (.wrcfg idx value)) 32 16 = 0 ∧ slice (encode (.wrcfg idx value)) 0 32 = value := by
  simp only [slice, encode]
  refine ⟨?opcode, ?_, ?_, ?_⟩
  case opcode =>
    repeat rw [BitVec.extractLsb'_append_eq_of_le (by decide)]
    exact BitVec.extractLsb'_eq_self
  all_goals
    repeat rw [BitVec.extractLsb'_append_eq_of_le (by decide)]
    exact BitVec.extractLsb'_append_eq_right

theorem encode_rdreg_fields (idx : BitVec 8) :
    slice (encode (.rdreg idx)) 56 8 = 0x02 ∧ slice (encode (.rdreg idx)) 48 8 = idx ∧
    slice (encode (.rdreg idx)) 0 48 = 0 := by
  simp only [slice, encode]
  refine ⟨?opcode, ?_, ?_⟩
  case opcode =>
    repeat rw [BitVec.extractLsb'_append_eq_of_le (by decide)]
    exact BitVec.extractLsb'_eq_self
  all_goals
    repeat rw [BitVec.extractLsb'_append_eq_of_le (by decide)]
    exact BitVec.extractLsb'_append_eq_right

theorem encode_lookup_fields (ch : BitVec 2) (val : BitVec 8) :
    slice (encode (.lookup ch val)) 56 8 = 0x04 ∧ slice (encode (.lookup ch val)) 10 46 = 0 ∧
    slice (encode (.lookup ch val)) 8 2 = ch ∧ slice (encode (.lookup ch val)) 0 8 = val := by
  simp only [slice, encode]
  refine ⟨?opcode, ?_, ?_, ?_⟩
  case opcode =>
    repeat rw [BitVec.extractLsb'_append_eq_of_le (by decide)]
    exact BitVec.extractLsb'_eq_self
  all_goals
    repeat rw [BitVec.extractLsb'_append_eq_of_le (by decide)]
    exact BitVec.extractLsb'_append_eq_right

theorem encode_setpx_fields (x y : BitVec 16) (red green blue : BitVec 8) :
    slice (encode (.setpx x y red green blue)) 56 8 = 0x10 ∧
    decodeSetpx (encode (.setpx x y red green blue)) = .setpx x y red green blue := by
  simp only [slice, encode, decodeSetpx, Instr.setpx.injEq]
  refine ⟨?opcode, ?_, ?_, ?_, ?_, ?_⟩
  case opcode =>
    repeat rw [BitVec.extractLsb'_append_eq_of_le (by decide)]
    exact BitVec.extractLsb'_eq_self
  all_goals
    repeat rw [BitVec.extractLsb'_append_eq_of_le (by decide)]
    exact BitVec.extractLsb'_append_eq_right

/-! ### The row an opcode selects -/

theorem decodeRow_wrcfg {w : Word64} (hop : slice w 56 8 = 0x01) (hzero : slice w 32 16 = 0) :
    decodeRow w = .ok (.wrcfg (slice w 48 8) (slice w 0 32)) := by
  simp [decodeRow, decodeWrcfg, hop, hzero]

theorem decodeRow_rdreg {w : Word64} (hop : slice w 56 8 = 0x02) (hzero : slice w 0 48 = 0) :
    decodeRow w = .ok (.rdreg (slice w 48 8)) := by
  simp [decodeRow, decodeRdreg, hop, hzero]

theorem decodeRow_lookup {w : Word64} (hop : slice w 56 8 = 0x04) (hzero : slice w 10 46 = 0) :
    decodeRow w = .ok (.lookup (slice w 8 2) (slice w 0 8)) := by
  simp [decodeRow, decodeLookup, hop, hzero]

theorem decodeRow_setpx {w : Word64} (hop : slice w 56 8 = 0x10) : decodeRow w = .ok (decodeSetpx w) := by
  simp [decodeRow, hop]

/-- The row of a command's own opcode gives the command back, with operands legal or not (rules R92 to R94). -/
theorem decodeRow_encode (i : Instr) : decodeRow (encode i) = .ok i := by
  cases i with
  | wrcfg idx value =>
    obtain ⟨hop, hidx, hzero, hvalue⟩ := encode_wrcfg_fields idx value
    rw [decodeRow_wrcfg hop hzero, hidx, hvalue]
  | rdreg idx =>
    obtain ⟨hop, hidx, hzero⟩ := encode_rdreg_fields idx
    rw [decodeRow_rdreg hop hzero, hidx]
  | lookup ch val =>
    obtain ⟨hop, hzero, hch, hval⟩ := encode_lookup_fields ch val
    rw [decodeRow_lookup hop hzero, hch, hval]
  | setpx x y red green blue =>
    obtain ⟨hop, hfields⟩ := encode_setpx_fields x y red green blue
    rw [decodeRow_setpx hop, hfields]
  | init => decide
  | clear => decide
  | commit => decide
  | start => decide
  | stop => decide

/-- Settles O1: the row of the opcode gives every command back, and a well-formed one passes the restrictions. -/
theorem encodeThenDecodeReturnsTheCommand : Obligations.EncodeThenDecodeReturnsTheCommand :=
  fun i hi => decode_of_row (decodeRow_encode i) hi

/-- Settles O4: each word is the encoding of its command. -/
theorem specWordsDecodeToTheirCommands : Obligations.SpecWordsDecodeToTheirCommands := by
  have hdecode := encodeThenDecodeReturnsTheCommand
  exact ⟨hdecode (.wrcfg 6 0xFFFFFFFF) rfl, hdecode (.rdreg 0x1A) rfl, hdecode (.lookup 2 255) rfl,
    hdecode (.setpx 63 63 0x12 0x34 0x56) rfl, hdecode (.setpx 1 3 255 128 0) rfl, hdecode .stop rfl⟩

/-! ### An accepted word is the encoding of its command -/

/-- A word is the concatenation of its opcode and the bits below it. -/
theorem word_eq_opcode_append (w : Word64) : w = slice w 56 8 ++ slice w 0 56 :=
  calc w = slice w 0 64 := BitVec.extractLsb'_eq_self.symm
    _ = slice w 56 8 ++ slice w 0 56 := (slice_append_slice w (hi := 56) (lo := 0) (len := 8) (len' := 56) rfl).symm

/-- Format Z carries its opcode and nothing else. -/
theorem encode_of_decodeZ {w : Word64} {i j : Instr} (hop : slice w 56 8 = opcodeOf i)
    (hi : encode i = opcodeOf i ++ 0#56) (h : decodeZ w i = .ok j) : encode j = w := by
  unfold decodeZ at h
  split at h
  case isFalse => cases h
  case isTrue hzero =>
    cases h
    calc encode i = slice w 56 8 ++ slice w 0 56 := by rw [hi, hop, hzero]; rfl
      _ = w := (word_eq_opcode_append w).symm

theorem encode_of_decodeWrcfg {w : Word64} {i : Instr} (hop : slice w 56 8 = 0x01) (h : decodeWrcfg w = .ok i) :
    encode i = w := by
  unfold decodeWrcfg at h
  split at h
  case isFalse => cases h
  case isTrue hzero =>
    cases h
    calc encode (.wrcfg (slice w 48 8) (slice w 0 32))
        = slice w 56 8 ++ slice w 48 8 ++ slice w 32 16 ++ slice w 0 32 := by rw [hop, hzero]; rfl
      _ = slice w 48 16 ++ slice w 32 16 ++ slice w 0 32 := by rw [slice_append_slice w (hi := 56) (lo := 48) rfl]
      _ = slice w 32 32 ++ slice w 0 32 := by rw [slice_append_slice w (hi := 48) (lo := 32) rfl]
      _ = slice w 0 64 := slice_append_slice w (hi := 32) (lo := 0) rfl
      _ = w := BitVec.extractLsb'_eq_self

theorem encode_of_decodeRdreg {w : Word64} {i : Instr} (hop : slice w 56 8 = 0x02) (h : decodeRdreg w = .ok i) :
    encode i = w := by
  unfold decodeRdreg at h
  split at h
  case isFalse => cases h
  case isTrue hzero =>
    cases h
    calc encode (.rdreg (slice w 48 8))
        = slice w 56 8 ++ slice w 48 8 ++ slice w 0 48 := by rw [hop, hzero]; rfl
      _ = slice w 48 16 ++ slice w 0 48 := by rw [slice_append_slice w (hi := 56) (lo := 48) rfl]
      _ = slice w 0 64 := slice_append_slice w (hi := 48) (lo := 0) rfl
      _ = w := BitVec.extractLsb'_eq_self

theorem encode_of_decodeLookup {w : Word64} {i : Instr} (hop : slice w 56 8 = 0x04) (h : decodeLookup w = .ok i) :
    encode i = w := by
  unfold decodeLookup at h
  split at h
  case isFalse => cases h
  case isTrue hzero =>
    cases h
    calc encode (.lookup (slice w 8 2) (slice w 0 8))
        = slice w 56 8 ++ slice w 10 46 ++ slice w 8 2 ++ slice w 0 8 := by rw [hop, hzero]; rfl
      _ = slice w 10 54 ++ slice w 8 2 ++ slice w 0 8 := by rw [slice_append_slice w (hi := 56) (lo := 10) rfl]
      _ = slice w 8 56 ++ slice w 0 8 := by rw [slice_append_slice w (hi := 10) (lo := 8) rfl]
      _ = slice w 0 64 := slice_append_slice w (hi := 8) (lo := 0) rfl
      _ = w := BitVec.extractLsb'_eq_self

theorem encode_decodeSetpx {w : Word64} (hop : slice w 56 8 = 0x10) : encode (decodeSetpx w) = w :=
  calc encode (decodeSetpx w)
      = slice w 56 8 ++ slice w 40 16 ++ slice w 24 16 ++ slice w 16 8 ++ slice w 8 8 ++ slice w 0 8 := by rw [hop]; rfl
    _ = slice w 40 24 ++ slice w 24 16 ++ slice w 16 8 ++ slice w 8 8 ++ slice w 0 8 := by
        rw [slice_append_slice w (hi := 56) (lo := 40) rfl]
    _ = slice w 24 40 ++ slice w 16 8 ++ slice w 8 8 ++ slice w 0 8 := by
        rw [slice_append_slice w (hi := 40) (lo := 24) rfl]
    _ = slice w 16 48 ++ slice w 8 8 ++ slice w 0 8 := by rw [slice_append_slice w (hi := 24) (lo := 16) rfl]
    _ = slice w 8 56 ++ slice w 0 8 := by rw [slice_append_slice w (hi := 16) (lo := 8) rfl]
    _ = slice w 0 64 := slice_append_slice w (hi := 8) (lo := 0) rfl
    _ = w := BitVec.extractLsb'_eq_self

/-- Row by row, a word whose reserved bits are zero is the encoding of the command its fields name. -/
theorem encode_of_decodeRow {w : Word64} {i : Instr} (h : decodeRow w = .ok i) : encode i = w := by
  simp only [decodeRow] at h
  split at h
  case isTrue hop => exact encode_of_decodeWrcfg hop h
  split at h
  case isTrue hop => exact encode_of_decodeRdreg hop h
  split at h
  case isTrue hop => exact encode_of_decodeZ (i := .init) hop rfl h
  split at h
  case isTrue hop => exact encode_of_decodeLookup hop h
  split at h
  case isTrue hop => cases h; exact encode_decodeSetpx hop
  split at h
  case isTrue hop => exact encode_of_decodeZ (i := .clear) hop rfl h
  split at h
  case isTrue hop => exact encode_of_decodeZ (i := .commit) hop rfl h
  split at h
  case isTrue hop => exact encode_of_decodeZ (i := .start) hop rfl h
  split at h
  case isTrue hop => exact encode_of_decodeZ (i := .stop) hop rfl h
  cases h

/-- The restrictions refuse words and change none, so an accepted word's command is the one of its row. -/
theorem decodeRow_of_decode {w : Word64} {i : Instr} (h : decode w = .ok i) : decodeRow w = .ok i := by
  unfold decode at h
  split at h
  case h_1 => cases h
  case h_2 hrow =>
    split at h
    case h_1 => cases h
    case h_2 => cases h; exact hrow

/-- Settles O3: the operands passed the restrictions, and the row's fields are the whole word. -/
theorem acceptedWordIsItsCommandsEncoding : Obligations.AcceptedWordIsItsCommandsEncoding :=
  fun _ _ h => ⟨decode_wellFormed h, encode_of_decodeRow (decodeRow_of_decode h)⟩

/-! ### The legal words (rule R93) -/

/-- The word of a command meets the mask and the match value of the command's row. -/
theorem encode_masked (i : Instr) : encode i &&& (rowOf i).mask = (rowOf i).pattern := by
  have hselects : ∀ {j : Instr}, Laws.MatchesRow.Statement j → encode j &&& (rowOf j).mask = (rowOf j).pattern :=
    fun ⟨_, hsel, _⟩ => beq_iff_eq.1 hsel
  cases i with
  | wrcfg idx value => exact hselects (Laws.MatchesRow.wrcfg idx value)
  | rdreg idx => exact hselects (Laws.MatchesRow.rdreg idx)
  | lookup ch val => exact hselects (Laws.MatchesRow.lookup ch val)
  | setpx x y red green blue => exact hselects (Laws.MatchesRow.setpx x y red green blue)
  | init => exact hselects Laws.MatchesRow.init
  | clear => exact hselects Laws.MatchesRow.clear
  | commit => exact hselects Laws.MatchesRow.commit
  | start => exact hselects Laws.MatchesRow.start
  | stop => exact hselects Laws.MatchesRow.stop

/-- The indices `RDREG` may name, as the opcode map lists them (rules R36 and R93). -/
theorem readIndex_iff (idx : BitVec 8) : readIndex idx = true ↔
    idx.toNat ≤ 0x06 ∨ (0x10 ≤ idx.toNat ∧ idx.toNat ≤ 0x14) ∨ (0x18 ≤ idx.toNat ∧ idx.toNat ≤ 0x1E) := by
  simp [readIndex, or_assoc]

theorem legalWord_encode {i : Instr} (hi : i.wellFormed = true) : LegalWord (encode i) := by
  unfold LegalWord
  cases i with
  | wrcfg idx value =>
    obtain ⟨-, hidx, -⟩ := encode_wrcfg_fields idx value
    exact .inl ⟨encode_masked (.wrcfg idx value), by rw [hidx]; exact of_decide_eq_true hi⟩
  | rdreg idx =>
    obtain ⟨-, hidx, -⟩ := encode_rdreg_fields idx
    exact .inr (.inl ⟨encode_masked (.rdreg idx), by rw [hidx]; exact (readIndex_iff idx).1 hi⟩)
  | init => exact .inr (.inr (.inl rfl))
  | lookup ch val =>
    obtain ⟨-, -, hch, -⟩ := encode_lookup_fields ch val
    exact .inr (.inr (.inr (.inl ⟨encode_masked (.lookup ch val), by rw [hch]; exact bne_iff_ne.1 hi⟩)))
  | setpx x y red green blue => exact .inr (.inr (.inr (.inr (.inl (encode_masked (.setpx x y red green blue))))))
  | clear => exact .inr (.inr (.inr (.inr (.inr (.inl rfl)))))
  | commit => exact .inr (.inr (.inr (.inr (.inr (.inr (.inl rfl))))))
  | start => exact .inr (.inr (.inr (.inr (.inr (.inr (.inr (.inl rfl)))))))
  | stop => exact .inr (.inr (.inr (.inr (.inr (.inr (.inr (.inr rfl)))))))

theorem decode_of_legalWord {w : Word64} (h : LegalWord w) : ∃ i, decode w = .ok i := by
  obtain ⟨hmask, hidx⟩ | ⟨hmask, hidx⟩ | rfl | ⟨hmask, hch⟩ | hmask | rfl | rfl | rfl | rfl := h
  · have hrow := decodeRow_wrcfg (slice_eq_of_masked hmask 56 8 (by decide)) (slice_eq_of_masked hmask 32 16 (by decide))
    exact ⟨_, decode_of_row hrow (decide_eq_true hidx)⟩
  · have hrow := decodeRow_rdreg (slice_eq_of_masked hmask 56 8 (by decide)) (slice_eq_of_masked hmask 0 48 (by decide))
    exact ⟨_, decode_of_row hrow ((readIndex_iff _).2 hidx)⟩
  · exact ⟨.init, encodeThenDecodeReturnsTheCommand .init rfl⟩
  · have hrow := decodeRow_lookup (slice_eq_of_masked hmask 56 8 (by decide)) (slice_eq_of_masked hmask 10 46 (by decide))
    exact ⟨_, decode_of_row hrow (bne_iff_ne.2 hch)⟩
  · exact ⟨_, decode_of_row (decodeRow_setpx (slice_eq_of_masked hmask 56 8 (by decide))) rfl⟩
  · exact ⟨.clear, encodeThenDecodeReturnsTheCommand .clear rfl⟩
  · exact ⟨.commit, encodeThenDecodeReturnsTheCommand .commit rfl⟩
  · exact ⟨.start, encodeThenDecodeReturnsTheCommand .start rfl⟩
  · exact ⟨.stop, encodeThenDecodeReturnsTheCommand .stop rfl⟩

/-- Settles O2: an accepted word is the encoding of a well-formed command, and such an encoding is a legal word. -/
theorem decoderAcceptsExactlyTheLegalWords : Obligations.DecoderAcceptsExactlyTheLegalWords := by
  refine fun w => ⟨fun ⟨i, hdecode⟩ => ?_, decode_of_legalWord⟩
  obtain ⟨hi, rfl⟩ := acceptedWordIsItsCommandsEncoding w i hdecode
  exact legalWord_encode hi

/-! ### The bytes of a narrower channel (rule R65) -/

@[simp] theorem length_encodeBytes (i : Instr) : (encodeBytes i).length = 8 := length_littleEndian ..

/-- A command's bytes are taken off the front of a channel, and the word they carry is decoded. -/
theorem decodeBytes_encodeBytes_append {i : Instr} (hi : i.wellFormed = true) (rest : List Byte) :
    decodeBytes (encodeBytes i ++ rest) = .ok (i, rest) := by
  have hlen : ¬ (encodeBytes i ++ rest).length < 8 := by simp
  have hword : BitVec.ofNat 64 (ofLittleEndian (encodeBytes i)) = encode i := ofLittleEndian_toNat (by decide) _
  rw [decodeBytes, if_neg hlen, List.take_left' (length_encodeBytes i), List.drop_left' (length_encodeBytes i), hword,
    encodeThenDecodeReturnsTheCommand i hi]

/-- The bytes of a packed image carry the record (rules R65 and R104). -/
theorem ofImageBytes_imageBytes (d : Descriptor) : Descriptor.ofImageBytes d.imageBytes = d := by
  rw [Descriptor.ofImageBytes, Descriptor.imageBytes, ofLittleEndian_toNat (by norm_num), d.ofImage_image]

/-- Settles O6: all three forms are the same little-endian numerals, of eight bytes or sixteen. -/
theorem commandBytesCarryTheCommand : Obligations.CommandBytesCarryTheCommand :=
  ⟨fun i => ⟨length_encodeBytes i, fun _ hk => getElem?_littleEndian_toNat hk _⟩,
    fun _ rest hi => decodeBytes_encodeBytes_append hi rest,
    fun _ _ => ⟨length_littleEndian .., fun _ hk => getElem?_littleEndian_toNat hk _⟩,
    fun d => ⟨length_littleEndian .., fun _ hk => getElem?_littleEndian_toNat hk _, ofImageBytes_imageBytes d⟩⟩

end Sys2Proof
end

section
/-! The command port (spec/30_encoding.md, rules R90 to R98): when a word is executed, and what each command can do, said
once with the command that does it. -/

namespace Sys2Proof.Machine

/-! ### When a word is executed -/

/-- The state a prescribed turn is taken in is the statements' `inTurn` (rule R10). -/
theorem step_eq_takeTurn {s : State} {tn : Turn} {rest : List Turn} (h : s.turns = tn :: rest) :
    step s = takeTurn tn (s.inTurn rest) := step_of_turns h

/-- A ready port latches the word and executes it (rule R90). -/
theorem takeTurn_command_of_ready {s : State} (h : s.stopReq = false) (w : Word64) :
    takeTurn (.command w) s = executeWord w { s with cmd := w } := by
  simp [takeTurn, offerCommand, State.cmdReady, h]

/-- While a `STOP` waits the port takes nothing (rules R27 and R90). -/
theorem takeTurn_command_of_waiting {s : State} (h : s.stopReq = true) (w : Word64) :
    takeTurn (.command w) s = .next s := by
  simp [takeTurn, offerCommand, State.cmdReady, h]

theorem executeWord_of_decode {w : Word64} {i : Instr} (h : decode w = .ok i) (s : State) :
    executeWord w s = exec i s := by
  simp [executeWord, h]

/-- The decoder refuses every word that is not legal, and the port answers it so (rule R96). -/
theorem executeWord_of_not_legalWord {w : Word64} (h : ¬ LegalWord w) (s : State) :
    executeWord w s = .next s.illegal := by
  unfold executeWord
  split
  case h_1 i hdecode => exact absurd ((decoderAcceptsExactlyTheLegalWords w).1 ⟨i, hdecode⟩) h
  case h_2 => rfl

/-- A step whose turn is a word at a ready port executes the word, with the turn taken and the word latched. -/
theorem step_command_of_ready {s : State} {w : Word64} {rest : List Turn} (hturns : s.turns = .command w :: rest)
    (hready : s.stopReq = false) : step s = executeWord w { s.inTurn rest with cmd := w } :=
  (step_eq_takeTurn hturns).trans (takeTurn_command_of_ready (s := s.inTurn rest) hready w)

/-- Settles O7: the port is ready, and the decoder names the command. -/
theorem stepExecutesTheDecodedCommand : Obligations.StepExecutesTheDecodedCommand :=
  fun _ _ _ _ hturns hready hdecode => (step_command_of_ready hturns hready).trans (executeWord_of_decode hdecode _)

/-- Settles O8: the port takes the word, and the decoder refuses it. -/
theorem illegalWordChangesNothing : Obligations.IllegalWordChangesNothing :=
  fun _ _ _ hturns hready hillegal =>
    (step_command_of_ready hturns hready).trans (executeWord_of_not_legalWord hillegal _)

/-- Settles O9: the port is not ready. -/
theorem portTakesNothingWhileStopWaits : Obligations.PortTakesNothingWhileStopWaits :=
  fun s w rest hturns hwaiting =>
    (step_eq_takeTurn hturns).trans (takeTurn_command_of_waiting (s := s.inTurn rest) hwaiting w)

/-- Settles O11: the guard tests the operands before it looks at the engine state (rule R95). -/
theorem illegalOperandsOutrankTheEngineState : Obligations.IllegalOperandsOutrankTheEngineState := by
  intro i s hi
  have hrestricted : restricted i ≠ none := by simp [restricted_eq_none_iff, hi]
  rw [exec_eq_command]
  obtain ⟨-, hanswer⟩ | ⟨hnone, -⟩ | ⟨hnone, -⟩ := s.command_cases i (ownRule s i)
  · exact hanswer
  · exact absurd hnone hrestricted
  · exact absurd hnone hrestricted

/-! ### What each command can do -/

/-- `CommandEffect` together with the command that has the effect, and the bound on the status of an answer (rule R98). -/
inductive InstrEffect (s : State) : Instr → State → Prop where
  /-- A response and nothing else: an error, or a pure read. -/
  | answer (i : Instr) (status : BitVec 8) (d : Reg32) (hstatus : status.toNat ≤ 5) :
      InstrEffect s i (s.emitRsp status d)
  | config (idx : BitVec 8) (v : Reg32) (c : ConfigRegs) (hst : s.st ≠ .running) :
      InstrEffect s (.wrcfg idx v) ({ s with cfg := c }.emitRsp statusOk 0)
  | built (hst : s.st ≠ .running) (hlegal : s.cfg.Legal s.params) : InstrEffect s .init (s.build.emitRsp statusOk 0)
  | counted (x y : BitVec 16) (r g b : BitVec 8) :
      InstrEffect s (.setpx x y r g b)
        ({ s with oobCount := saturatingInc s.oobCount }.emitRsp ErrorKind.outOfBounds.code 0)
  | pixel (x y : BitVec 16) (r g b : BitVec 8) :
      InstrEffect s (.setpx x y r g b) ((s.setPixel x y (s.lut.convert r g b)).emitRsp statusOk 0)
  | cleared : InstrEffect s .clear (s.clearWritable.emitRsp statusOk 0)
  | committed : InstrEffect s .commit ({ s with pending := true }.emitRsp statusOk 0)
  | started (hst : s.st = .ready ∨ s.st = .stopped) : InstrEffect s .start (s.startChain.emitRsp statusOk 0)
  | stopping (hst : s.st = .running) : InstrEffect s .stop { s with stopReq := true }

theorem ErrorKind.code_le (k : ErrorKind) : k.code.toNat ≤ 5 := by
  cases k <;> decide

theorem InstrEffect.respond (s : State) (i : Instr) (d : Reg32) : InstrEffect s i (s.respond d) :=
  .answer i statusOk d (by decide)

theorem InstrEffect.raise (s : State) (i : Instr) (k : ErrorKind) (d : Reg32) : InstrEffect s i (s.raise k d) :=
  .answer i k.code d k.code_le

/-- The engine state that accepts `STOP` (rule R240). -/
theorem accepts_stop_iff {st : EngineState} : accepts .stop st = true ↔ st = .running := by
  cases st <;> simp [accepts]

/-- The engine states that accept `WRCFG` (rule R240). -/
theorem accepts_wrcfg_iff {idx : BitVec 8} {v : Reg32} {st : EngineState} :
    accepts (.wrcfg idx v) st = true ↔ st ≠ .running := by
  cases st <;> simp [accepts]

theorem setpxOwn_effect {x y : BitVec 16} {r g b : BitVec 8} {s t : State}
    (h : setpxOwn x y r g b s = .next t) : InstrEffect s (.setpx x y r g b) t := by
  unfold setpxOwn at h
  split at h
  case isFalse => cases h; exact .counted x y r g b
  case isTrue =>
    split at h
    case isFalse => cases h
    case isTrue => cases h; exact .pixel x y r g b

/-- The own rule of an accepted command has one of the command's effects. -/
theorem ownRule_effect {i : Instr} {s t : State} (hacc : accepts i s.st = true) (h : ownRule s i = .next t) :
    InstrEffect s i t := by
  cases i with
  | wrcfg idx v =>
    cases h
    unfold writeConfig
    split
    case h_1 c _ => exact .config idx v c (accepts_wrcfg_iff.1 hacc)
    case h_2 => exact .raise s _ _ 0
  | rdreg idx =>
    cases h
    unfold answerRegister
    split
    case h_1 v _ => exact .respond s _ v
    case h_2 => exact .raise s _ _ 0
  | init =>
    cases h
    unfold initialise
    split
    case h_1 n _ => exact .raise s _ _ _
    case h_2 hcheck => exact .built (accepts_init_iff.1 hacc) (ConfigRegs.failedCheck_eq_none_iff.1 hcheck)
  | lookup ch v =>
    cases h
    unfold lookupAnswer
    split
    case h_1 => exact .respond s _ _
    case h_2 => exact .raise s _ _ 0
  | setpx x y r g b => exact setpxOwn_effect h
  | clear => cases h; exact .cleared
  | commit => cases h; exact .committed
  | start => cases h; exact .started (accepts_start_iff.1 hacc)
  | stop => cases h; exact .stopping (accepts_stop_iff.1 hacc)

/-- Everything a command can do: the guard answers it (rule R95), or its own rule does. -/
theorem exec_effect {i : Instr} {s t : State} (h : exec i s = .next t) : InstrEffect s i t := by
  rw [exec_eq_command] at h
  obtain ⟨-, hcmd⟩ | ⟨-, -, hcmd⟩ | ⟨-, hacc, hcmd⟩ := s.command_cases i (ownRule s i)
  · rw [hcmd] at h; cases h; exact .raise s i _ 0
  · rw [hcmd] at h; cases h; exact .raise s i _ _
  · exact ownRule_effect hacc (hcmd ▸ h)

/-- What an offered word can do: nothing, an answer alone, or an effect of the command it decodes to. -/
theorem takeTurn_command_effect {w : Word64} {s t : State} (h : takeTurn (.command w) s = .next t) :
    t = s ∨ t = { s with cmd := w }.illegal ∨ ∃ i, decode w = .ok i ∧ InstrEffect { s with cmd := w } i t :=
  (takeTurn_command_next h).imp_right (Or.imp_right fun ⟨i, hdecode, hexec⟩ => ⟨i, hdecode, exec_effect hexec⟩)

/-- One response with a status of rule R98, presented after an update that leaves the observation alone. -/
theorem State.emitRsp_answers {s u : State} (hu : u.observed = s.observed) {status : BitVec 8} (d : Reg32)
    (hstatus : status.toNat ≤ 5) :
    ∃ (a : BitVec 8) (e : Reg32), (u.emitRsp status d).observed = s.observed ++ [.rsp a e] ∧
      (u.emitRsp status d).rspReg = a ++ 0#24 ++ e ∧ (u.emitRsp status d).rspValid = true ∧ a.toNat ≤ 5 :=
  ⟨status, d, by rw [State.emitRsp_observed, hu], rfl, rfl, hstatus⟩

/-- Settles O12: every effect but the request step of `STOP` is an update that leaves the observation alone, then one
response. -/
theorem commandAnswersExactlyOnce : Obligations.CommandAnswersExactlyOnce := by
  intro i s t h
  cases exec_effect h with
  | answer _ status d hstatus => exact .inl (State.emitRsp_answers rfl d hstatus)
  | config => exact .inl (State.emitRsp_answers rfl 0 (by decide))
  | built => exact .inl (State.emitRsp_answers rfl 0 (by decide))
  | counted => exact .inl (State.emitRsp_answers rfl 0 (by decide))
  | pixel => exact .inl (State.emitRsp_answers (s.withBuf_observed ..) 0 (by decide))
  | cleared => exact .inl (State.emitRsp_answers (s.withBuf_observed ..) 0 (by decide))
  | committed => exact .inl (State.emitRsp_answers rfl 0 (by decide))
  | started => exact .inl (State.emitRsp_answers rfl 0 (by decide))
  | stopping hst => exact .inr ⟨rfl, hst, rfl⟩

end Sys2Proof.Machine
end

section
/-! The memories (rule R43 (d)): every step keeps the buffers and the shift mirror canonical, with bits 7:6 of every byte zero. -/

namespace Sys2Proof.Machine

/-! ### One step is one turn -/

/-- A step is some turn, taken in a state that differs in the model's turn fields and `rsp_valid` only. -/
theorem step_next {s t : State} (h : step s = .next t) :
    ∃ tn ts n, takeTurn tn { s with turns := ts, freeCount := n, rspValid := false } = .next t := by
  obtain ⟨ts, n, hstate⟩ := s.nextTurn_state
  exact ⟨s.nextTurn.1, ts, n, hstate ▸ h⟩

/-! ### The step each phase enables (rule R11) -/

theorem background_of_off {s : State} (hph : s.ph = .off) : background s = .next s := by
  simp [background, hph]

theorem background_of_fetch {s : State} (hph : s.ph = .fetch) (hst : s.st = .running) : background s = bgFetch s := by
  simp [background, hph, hst]

theorem background_of_fetch_idle {s : State} (hph : s.ph = .fetch) (hst : s.st ≠ .running) : background s = .next s := by
  simp [background, hph, hst]

theorem background_of_shift {s : State} (hph : s.ph = .shift) : background s = bgShift s := by
  simp [background, hph]

theorem background_of_latch {s : State} (hph : s.ph = .latch) : background s = bgLatch s := by
  simp [background, hph]

theorem background_of_hold {s : State} (hph : s.ph = .hold) : background s = bgHold s := by
  simp [background, hph]

theorem background_of_done {s : State} (hph : s.ph = .done) : background s = bgDone s := by
  simp [background, hph]

theorem bgFetch_of_stopReq {s : State} (h : s.stopReq = true) : bgFetch s = .next s.honourStop := by
  simp [bgFetch, h]

theorem bgFetch_of_not_stopReq {s : State} (h : s.stopReq = false) : bgFetch s = s.boundary.loadDescriptor := by
  simp [bgFetch, h]

theorem State.loadDescriptor_of_entry {s : State} {r : Descriptor} (h : s.desc[s.cur.toNat]? = some r) :
    s.loadDescriptor = .next { s with dreg := r, shiftK := 0, ph := .shift } := by
  simp [State.loadDescriptor, h]

theorem State.loadDescriptor_of_no_entry {s : State} (h : s.desc[s.cur.toNat]? = none) :
    s.loadDescriptor = .fault .noSuchDescriptor := by
  simp [State.loadDescriptor, h]

theorem State.boundary_of_pending {s : State} (hcur : s.cur = 0) (hpending : s.pending = true) : s.boundary = s.adopt := by
  simp [State.boundary, hcur, hpending]

theorem State.boundary_of_not {s : State} (h : ¬ (s.cur = 0 ∧ s.pending = true)) : s.boundary = s := by
  simp only [State.boundary, if_neg h]

theorem bgShift_of_inSpace {s : State} (h : s.shiftAddr < s.act.bufWords) : bgShift s = .next s.shiftOne := by
  simp [bgShift, ConfigRegs.inBufferSpace, h]

theorem bgShift_fault {s : State} (h : s.act.bufWords ≤ s.shiftAddr) : bgShift s = .fault .noSuchBufferWord := by
  simp [bgShift, ConfigRegs.inBufferSpace, Nat.not_lt.2 h]

/-! ### What an escalation and a `TIMEOUT` leave unchanged (rules R276 to R278) -/

@[simp] theorem State.escalate_active (s : State) : s.escalate.active = s.active := by
  unfold State.escalate; split <;> rfl
@[simp] theorem State.escalate_sr (s : State) : s.escalate.sr = s.sr := by
  unfold State.escalate; split <;> rfl
@[simp] theorem State.escalate_act (s : State) : s.escalate.act = s.act := by
  unfold State.escalate; split <;> rfl
@[simp] theorem State.escalate_lut (s : State) : s.escalate.lut = s.lut := by
  unfold State.escalate; split <;> rfl
@[simp] theorem State.escalate_desc (s : State) : s.escalate.desc = s.desc := by
  unfold State.escalate; split <;> rfl
@[simp] theorem State.escalate_bufA (s : State) : s.escalate.bufA = s.bufA := by
  unfold State.escalate; split <;> rfl
@[simp] theorem State.escalate_bufB (s : State) : s.escalate.bufB = s.bufB := by
  unfold State.escalate; split <;> rfl

@[simp] theorem State.timeout_active (s : State) : s.timeout.active = s.active := by
  obtain ⟨-, hout⟩ | ⟨-, -, hout⟩ | ⟨-, -, hout⟩ := s.timeout_cases <;> simp [hout]
@[simp] theorem State.timeout_sr (s : State) : s.timeout.sr = s.sr := by
  obtain ⟨-, hout⟩ | ⟨-, -, hout⟩ | ⟨-, -, hout⟩ := s.timeout_cases <;> simp [hout]
@[simp] theorem State.timeout_act (s : State) : s.timeout.act = s.act := by
  obtain ⟨-, hout⟩ | ⟨-, -, hout⟩ | ⟨-, -, hout⟩ := s.timeout_cases <;> simp [hout]
@[simp] theorem State.timeout_lut (s : State) : s.timeout.lut = s.lut := by
  obtain ⟨-, hout⟩ | ⟨-, -, hout⟩ | ⟨-, -, hout⟩ := s.timeout_cases <;> simp [hout]
@[simp] theorem State.timeout_desc (s : State) : s.timeout.desc = s.desc := by
  obtain ⟨-, hout⟩ | ⟨-, -, hout⟩ | ⟨-, -, hout⟩ := s.timeout_cases <;> simp [hout]
@[simp] theorem State.timeout_bufA (s : State) : s.timeout.bufA = s.bufA := by
  obtain ⟨-, hout⟩ | ⟨-, -, hout⟩ | ⟨-, -, hout⟩ := s.timeout_cases <;> simp [hout]
@[simp] theorem State.timeout_bufB (s : State) : s.timeout.bufB = s.bufB := by
  obtain ⟨-, hout⟩ | ⟨-, -, hout⟩ | ⟨-, -, hout⟩ := s.timeout_cases <;> simp [hout]

/-! ### What the cycle boundary leaves unchanged (rules R163 and R166) -/

@[simp] theorem State.boundary_st (s : State) : s.boundary.st = s.st := by
  unfold State.boundary; split <;> rfl
@[simp] theorem State.boundary_ph (s : State) : s.boundary.ph = s.ph := by
  unfold State.boundary; split <;> rfl
@[simp] theorem State.boundary_stopReq (s : State) : s.boundary.stopReq = s.stopReq := by
  unfold State.boundary; split <;> rfl
@[simp] theorem State.boundary_act (s : State) : s.boundary.act = s.act := by
  unfold State.boundary; split <;> rfl
@[simp] theorem State.boundary_lut (s : State) : s.boundary.lut = s.lut := by
  unfold State.boundary; split <;> rfl
@[simp] theorem State.boundary_sr (s : State) : s.boundary.sr = s.sr := by
  unfold State.boundary; split <;> rfl
@[simp] theorem State.boundary_bufA (s : State) : s.boundary.bufA = s.bufA := by
  unfold State.boundary; split <;> rfl
@[simp] theorem State.boundary_bufB (s : State) : s.boundary.bufB = s.bufB := by
  unfold State.boundary; split <;> rfl
@[simp] theorem State.boundary_observed (s : State) : s.boundary.observed = s.observed := by
  unfold State.boundary; split <;> rfl
@[simp] theorem State.boundary_turns (s : State) : s.boundary.turns = s.turns := by
  unfold State.boundary; split <;> rfl

/-- A fetch that completes loads an entry of the ring, on the state after the boundary work (rule R187). -/
theorem State.loadDescriptor_next {s t : State} (h : s.loadDescriptor = .next t) :
    ∃ d, s.desc[s.cur.toNat]? = some d ∧ t = { s with dreg := d, shiftK := 0, ph := .shift } := by
  obtain ⟨d, hd, hload⟩ | ⟨-, hload⟩ := s.loadDescriptor_cases
  · rw [hload] at h; cases h; exact ⟨d, hd, rfl⟩
  · rw [hload] at h; cases h

/-! ### The memory invariant -/

theorem State.MemoryInv.of_eq {s t : State} (h : s.MemoryInv) (hA : t.bufA = s.bufA) (hB : t.bufB = s.bufB)
    (hsr : t.sr = s.sr) : t.MemoryInv := by
  rw [State.MemoryInv, hA, hB, hsr]; exact h

theorem State.MemoryInv.buf {s : State} (h : s.MemoryInv) (k : BufId) :
    (s.buf k).wf = true ∧ (s.buf k).sixBit = true := by
  obtain ⟨⟨hwfA, hwfB, -⟩, hsixA, hsixB, -⟩ := h
  cases k
  case A => exact ⟨hwfA, hsixA⟩
  case B => exact ⟨hwfB, hsixB⟩

theorem State.MemoryInv.withBuf {s : State} (h : s.MemoryInv) (k : BufId) {m : Memory} (hwf : m.wf = true)
    (hsix : m.sixBit = true) : (s.withBuf k m).MemoryInv := by
  obtain ⟨⟨hwfA, hwfB, hwfSr⟩, hsixA, hsixB, hsixSr⟩ := h
  cases k
  case A => exact ⟨⟨hwf, hwfB, hwfSr⟩, hsix, hsixB, hsixSr⟩
  case B => exact ⟨⟨hwfA, hwf, hwfSr⟩, hsixA, hsix, hsixSr⟩

theorem State.MemoryInv.setPixel {s : State} (h : s.MemoryInv) (x y : BitVec 16) (v : Intensity) :
    (s.setPixel x y v).MemoryInv := by
  obtain ⟨hwf, hsix⟩ := h.buf s.writable
  obtain ⟨hwf', hsix'⟩ := writePixel_keeps s.act x.toNat y.toNat v hwf hsix
  exact h.withBuf s.writable hwf' hsix'

theorem State.MemoryInv.clearWritable {s : State} (h : s.MemoryInv) : s.clearWritable.MemoryInv := by
  obtain ⟨hwf, hsix⟩ := h.buf s.writable
  exact h.withBuf s.writable (Memory.wf_zeroBelow hwf _) (Memory.sixBit_zeroBelow hsix _)

theorem State.MemoryInv.build {s : State} (h : s.MemoryInv) : s.build.MemoryInv := by
  obtain ⟨⟨hwfA, hwfB, hwfSr⟩, hsixA, hsixB, hsixSr⟩ := h
  exact ⟨⟨Memory.wf_zeroBelow hwfA _, Memory.wf_zeroBelow hwfB _, hwfSr⟩,
    Memory.sixBit_zeroBelow hsixA _, Memory.sixBit_zeroBelow hsixB _, hsixSr⟩

theorem State.MemoryInv.shiftOne {s : State} (h : s.MemoryInv) : s.shiftOne.MemoryInv := by
  obtain ⟨⟨hwfA, hwfB, hwfSr⟩, hsixA, hsixB, hsixSr⟩ := h
  exact ⟨⟨hwfA, hwfB, Memory.wf_writeWord hwfSr _ _⟩, hsixA, hsixB, Memory.sixBit_writeWord hsixSr _ _⟩

/-- `SETPX`, `CLEAR` and `INIT` write words and zeros; no other command writes a memory. -/
theorem CommandEffect.memoryInv {s t : State} (he : CommandEffect s t) (h : s.MemoryInv) : t.MemoryInv := by
  cases he with
  | answer => exact h
  | config => exact h
  | built => exact h.build
  | counted => exact h
  | pixel x y v => exact h.setPixel x y v
  | cleared => exact h.clearWritable
  | committed => exact h
  | started => exact h
  | stopping => exact h

/-- Of the background agent's steps only `BG_SHIFT` writes a memory, the shift mirror. -/
theorem background_memoryInv {s t : State} (hb : background s = .next t) (h : s.MemoryInv) : t.MemoryInv := by
  obtain ⟨-, rfl⟩ | ⟨-, -, rfl⟩ | ⟨-, -, -, rfl⟩ | ⟨-, -, -, hfetch⟩ | ⟨-, -, rfl⟩ | ⟨-, hlatch⟩ | ⟨-, hhold⟩ |
    ⟨-, hdone⟩ := background_next hb
  · exact h
  · exact h
  · exact h
  · obtain ⟨d, -, rfl⟩ := State.loadDescriptor_next hfetch
    exact h.of_eq s.boundary_bufA s.boundary_bufB s.boundary_sr
  · exact h.shiftOne
  · cases hlatch; exact h
  · cases hhold; exact h
  · cases hdone; exact h

theorem takeTurn_memoryInv {tn : Turn} {s t : State} (ht : takeTurn tn s = .next t) (h : s.MemoryInv) : t.MemoryInv := by
  obtain ⟨w, -, -, rfl⟩ | ⟨w, -, -, heffect⟩ | ⟨-, hbackground⟩ | ⟨-, rfl⟩ | ⟨-, rfl⟩ := takeTurn_next ht
  · exact h
  · exact heffect.memoryInv h
  · exact background_memoryInv hbackground h
  · exact h.of_eq s.timeout_bufA s.timeout_bufB s.timeout_sr
  · exact ⟨⟨rfl, rfl, rfl⟩, rfl, rfl, rfl⟩

/-- Settles O41: turn by turn. -/
theorem stepKeepsMemoriesCanonical : Obligations.StepKeepsMemoriesCanonical := by
  intro s t h hstep
  obtain ⟨tn, ts, n, hturn⟩ := step_next hstep
  exact takeTurn_memoryInv hturn h

/-- Settles O42: the empty array is canonical. -/
theorem resetMemoriesAreCanonical : Obligations.ResetMemoriesAreCanonical :=
  ⟨⟨rfl, rfl, rfl⟩, rfl, rfl, rfl⟩

end Sys2Proof.Machine
end

section
/-! The invariant of the machine (rule R43): every update of the state keeps it, hence every turn does, and under it every turn
completes. -/

namespace Sys2Proof.Machine

/-! ### What the invariant gives -/

/-- The engine runs while the background agent has a phase. -/
theorem State.Inv.running_of_ph {s : State} (h : s.Inv) {p : Phase} (hph : s.ph = p) (hp : p ≠ .off) : s.st = .running :=
  h.running.2 (hph ▸ hp)

/-- Outside a run the chain is off. -/
theorem State.Inv.ph_off {s : State} (h : s.Inv) (hst : s.st ≠ .running) : s.ph = .off :=
  not_not.1 fun hph => hst (h.running.2 hph)

theorem State.Inv.built_of_running {s : State} (h : s.Inv) (hst : s.st = .running) : s.BuiltInv :=
  h.built (by rw [hst]; decide)

/-- Only `PH_SHIFT` leaves a word on `DATA`. -/
theorem State.Inv.data_of_ph {s : State} (h : s.Inv) {p : Phase} (hph : s.ph = p) (hp : p ≠ .shift) : s.pins.data = 0 :=
  h.pins.data (hph ▸ hp)

theorem State.BuiltInv.columns_pos {s : State} (h : s.BuiltInv) : 0 < s.act.columns.toNat := by
  obtain ⟨-, ⟨hcols, -⟩, -⟩ := h.legal
  exact hcols

/-- Where no pulse is in flight the invariant says nothing of one. -/
theorem State.PulseInv.of_not_inFlight {s : State} (h : s.ph.inFlight = false) : s.PulseInv where
  dreg hflight := absurd (hflight.symm.trans h) (by decide)
  room hph := by rw [hph] at h; cases h
  mirror hph := by rw [hph] at h; cases h
  mirrored hph := by rw [hph] at h; cases h

/-! ### The fields that the invariant does not speak of -/

/-- The staged registers, the observation, the waveform and the fields of `State.Inv.withPort` may be anything. -/
theorem State.Inv.withUnseen {s : State} (h : s.Inv) (c : ConfigRegs) (rs : List Record) (es : List PinEvent)
    (ts : List Turn) (n : Nat) (w r : Word64) (v : Bool) :
    ({ s with cfg := c, observed := rs, wave := es, turns := ts, freeCount := n, cmd := w, rspReg := r, rspValid := v } :
      State).Inv where
  params := h.params
  memory := h.memory
  built hst := ⟨(h.built hst).legal, (h.built hst).table, (h.built hst).ring, (h.built hst).cur⟩
  unbuilt hst :=
    ⟨(h.unbuilt hst).act, (h.unbuilt hst).active, (h.unbuilt hst).pending, (h.unbuilt hst).retryUsed, (h.unbuilt hst).cur,
      (h.unbuilt hst).counters⟩
  running := h.running
  faultStops := h.faultStops
  stopRuns := h.stopRuns
  pulse := ⟨h.pulse.dreg, h.pulse.room, h.pulse.mirror, h.pulse.mirrored⟩
  pins := ⟨h.pins.clkOut, h.pins.lat, h.pins.oeN, h.pins.data⟩
  faultInfo := h.faultInfo

theorem State.Inv.emitRsp {s : State} (h : s.Inv) (a : BitVec 8) (d : Reg32) : (s.emitRsp a d).Inv :=
  h.withUnseen s.cfg (s.observed ++ [Record.rsp a d]) s.wave s.turns s.freeCount s.cmd (responseWord a d) true

theorem State.Inv.withConfig {s : State} (h : s.Inv) (c : ConfigRegs) : ({ s with cfg := c } : State).Inv :=
  h.withUnseen c s.observed s.wave s.turns s.freeCount s.cmd s.rspReg s.rspValid

theorem State.Inv.withCmd {s : State} (h : s.Inv) (w : Word64) : ({ s with cmd := w } : State).Inv :=
  h.withPort s.turns s.freeCount w s.rspReg s.rspValid

theorem State.Inv.abandonPulse {s : State} (h : s.Inv) : s.abandonPulse.Inv := by
  obtain heq | ⟨-, heq⟩ := s.abandonPulse_cases
  · rw [heq]; exact h
  · rw [heq]
    exact h.withUnseen s.cfg s.observed (s.wave ++ [PinEvent.enable s.cutPeriods]) s.turns (s.freeCount + 1) s.cmd s.rspReg
      s.rspValid

/-! ### The updates of the commands -/

/-- The ring `INIT` builds holds the records of rule R38. -/
theorem buildRing_entry {c : ConfigRegs} {p : Params} (hp : p.Legal) (hc : c.Legal p)
    (old : Vector Descriptor Config.maxDescriptors) {d : Nat} (hd : d < c.descriptors) :
    (buildRing c old)[d]? = some (descriptorFor c .A d) := by
  obtain ⟨hrows, hcols, hdepth⟩ := hc.bounds hp
  obtain ⟨-, -, -, -, -, -, hmax⟩ := descriptorFor_values hrows hcols hdepth .A hd
  have hentry : d < Config.maxDescriptors := lt_of_lt_of_le hd hmax
  rw [buildRing_get?, Vector.getElem?_eq_getElem hentry, Option.map_some, if_pos hd]

/-- `INIT` of a legal configuration leaves a built engine with the chain off (rule R243). -/
theorem State.Inv.build {s : State} (h : s.Inv) (hst : s.st ≠ .running) (hlegal : s.cfg.Legal s.params) : s.build.Inv where
  params := h.params
  memory := h.memory.build
  built _ := ⟨hlegal, rfl, fun _ hd => buildRing_entry h.params hlegal s.desc hd, hlegal.descriptors_pos⟩
  unbuilt := nofun
  running := by simp
  faultStops := nofun
  stopRuns := nofun
  pulse := .of_not_inFlight rfl
  pins := ⟨h.pins.clkOut, h.pins.lat, h.pins.oeN, fun _ => h.data_of_ph (h.ph_off hst) (by decide)⟩
  faultInfo := Nat.two_pow_pos 19

/-- In a built engine a commit may be pending, out-of-bounds pixels may have been counted, and a running engine may be asked
to stop. -/
theorem State.Inv.withRequests {s : State} (h : s.Inv) (hst : s.st ≠ .uninitialized) (count : Reg32) (pending : Bool)
    {stop : Bool} (hstop : stop = true → s.st = .running) :
    ({ s with oobCount := count, pending := pending, stopReq := stop } : State).Inv where
  params := h.params
  memory := h.memory
  built _ := ⟨(h.built hst).legal, (h.built hst).table, (h.built hst).ring, (h.built hst).cur⟩
  unbuilt hst' := absurd hst' hst
  running := h.running
  faultStops := h.faultStops
  stopRuns := hstop
  pulse := ⟨h.pulse.dreg, h.pulse.room, h.pulse.mirror, h.pulse.mirrored⟩
  pins := ⟨h.pins.clkOut, h.pins.lat, h.pins.oeN, h.pins.data⟩
  faultInfo := h.faultInfo

/-- The shift mirror mirrors the active buffer, so the writable one may change (rule R63). -/
theorem State.Inv.withWritable {s : State} (h : s.Inv) (hst : s.st ≠ .uninitialized) {m : Memory}
    (hmem : (s.withBuf s.writable m).MemoryInv) : (s.withBuf s.writable m).Inv where
  params := by simpa using h.params
  memory := hmem
  built _ := by
    obtain ⟨hlegal, htable, hring, hcur⟩ := h.built hst
    exact ⟨by simpa using hlegal, by simpa using htable, by simpa using hring, by simpa using hcur⟩
  unbuilt hst' := absurd (by simpa using hst') hst
  running := by simpa using h.running
  faultStops := by simpa using h.faultStops
  stopRuns := by simpa using h.stopRuns
  pulse := ⟨by simpa using h.pulse.dreg, by simpa using h.pulse.room, by simpa using h.pulse.mirror,
    by simpa using h.pulse.mirrored⟩
  pins := ⟨by simpa using h.pins.clkOut, by simpa using h.pins.lat, by simpa using h.pins.oeN, by simpa using h.pins.data⟩
  faultInfo := by simpa using h.faultInfo

theorem State.Inv.startChain {s : State} (h : s.Inv) (hst : s.st = .ready ∨ s.st = .stopped) : s.startChain.Inv where
  params := h.params
  memory := h.memory
  built _ := by
    have hb := h.built (by obtain hst | hst := hst <;> rw [hst] <;> decide)
    exact ⟨hb.legal, hb.table, hb.ring, hb.legal.descriptors_pos⟩
  unbuilt := nofun
  running := by simp
  faultStops := nofun
  stopRuns _ := rfl
  pulse := .of_not_inFlight rfl
  pins := by
    have hidle : s.ph = .off := h.ph_off (by obtain hst | hst := hst <;> rw [hst] <;> decide)
    exact ⟨h.pins.clkOut, h.pins.lat, h.pins.oeN, fun _ => h.data_of_ph hidle (by decide)⟩
  faultInfo := h.faultInfo

/-- Every command keeps the invariant. -/
theorem CommandEffect.inv {s t : State} (he : CommandEffect s t) (h : s.Inv) : t.Inv := by
  cases he with
  | answer a d => exact h.emitRsp a d
  | config c => exact (h.withConfig c).emitRsp ..
  | built hst hcheck => exact (h.build hst (ConfigRegs.failedCheck_eq_none_iff.1 hcheck)).emitRsp ..
  | counted hst => exact (h.withRequests hst (saturatingInc s.oobCount) s.pending h.stopRuns).emitRsp ..
  | pixel x y v hst => exact (h.withWritable hst (h.memory.setPixel x y v)).emitRsp ..
  | cleared hst => exact (h.withWritable hst h.memory.clearWritable).emitRsp ..
  | committed hst => exact (h.withRequests hst s.oobCount true h.stopRuns).emitRsp ..
  | started hst => exact (h.startChain hst).emitRsp ..
  | stopping hst => exact h.withRequests (by rw [hst]; decide) s.oobCount s.pending fun _ => hst

/-! ### The steps of the background agent -/

theorem State.Inv.honourStop {s : State} (h : s.Inv) (hph : s.ph = .fetch) : s.honourStop.Inv where
  params := h.params
  memory := h.memory
  built _ := by
    have hb := h.built_of_running (h.running_of_ph hph (by decide))
    exact ⟨hb.legal, hb.table, hb.ring, hb.cur⟩
  unbuilt := nofun
  running := by simp
  faultStops _ := rfl
  stopRuns := nofun
  pulse := .of_not_inFlight rfl
  pins := ⟨h.pins.clkOut, h.pins.lat, h.pins.oeN, fun _ => h.data_of_ph hph (by decide)⟩
  faultInfo := h.faultInfo

/-- The swap re-points the whole ring to the buffer it makes active (rule R166). -/
theorem State.Inv.adopt {s : State} (h : s.Inv) (hph : s.ph = .fetch) : s.adopt.Inv where
  params := h.params
  memory := h.memory
  built _ := by
    obtain ⟨hlegal, htable, hring, hcur⟩ := h.built_of_running (h.running_of_ph hph (by decide))
    refine ⟨hlegal, htable, fun d hd => ?_, hcur⟩
    have hentry := hring d hd
    have hd' : d < s.act.descriptors := hd
    simp [repoint_get?, hentry, hd']
  unbuilt hst := absurd ((h.running_of_ph hph (by decide)).symm.trans hst) (by decide)
  running := h.running
  faultStops := h.faultStops
  stopRuns := h.stopRuns
  pulse := .of_not_inFlight (by rw [State.adopt_ph, hph]; rfl)
  pins := ⟨h.pins.clkOut, h.pins.lat, h.pins.oeN, h.pins.data⟩
  faultInfo := h.faultInfo

theorem State.Inv.boundary {s : State} (h : s.Inv) (hph : s.ph = .fetch) : s.boundary.Inv := by
  obtain ⟨-, -, heq⟩ | ⟨-, heq⟩ := s.boundary_cases
  · rw [heq]; exact h.adopt hph
  · rw [heq]; exact h

/-- The descriptor `CUR` names in a ring that meets the invariant (rules R24 and R182). -/
theorem State.Inv.desc_cur {s : State} (h : s.Inv) (hst : s.st = .running) :
    s.desc[s.cur.toNat]? = some (descriptorFor s.act s.active s.cur.toNat) := by
  have hb := h.built_of_running hst
  exact hb.ring _ hb.cur

theorem State.Inv.load {s : State} (h : s.Inv) (hph : s.ph = .fetch) {d : Descriptor}
    (hd : s.desc[s.cur.toNat]? = some d) : ({ s with dreg := d, shiftK := 0, ph := .shift } : State).Inv where
  params := h.params
  memory := h.memory
  built hst := ⟨(h.built hst).legal, (h.built hst).table, (h.built hst).ring, (h.built hst).cur⟩
  unbuilt hst := absurd ((h.running_of_ph hph (by decide)).symm.trans hst) (by decide)
  running := by simp [h.running_of_ph hph (by decide)]
  faultStops := h.faultStops
  stopRuns := h.stopRuns
  pulse := by
    have hrun := h.running_of_ph hph (by decide)
    refine ⟨fun _ => ?dreg, fun _ => (h.built_of_running hrun).columns_pos, fun _ x hx => ?mirror,
      nofun⟩
    case dreg => exact Option.some.inj (hd.symm.trans (h.desc_cur hrun))
    case mirror => exact absurd hx (Nat.not_lt_zero x)
  pins := ⟨h.pins.clkOut, h.pins.lat, h.pins.oeN, fun hph' => absurd rfl hph'⟩
  faultInfo := h.faultInfo

/-- A word of the region of `CUR` lies in the buffer space (rules R38 and R60). -/
theorem ConfigRegs.region_lt {c : ConfigRegs} {d x : Nat} (hd : d < c.descriptors) (hx : x < c.columns.toNat) :
    d * c.columns.toNat + x < c.bufWords :=
  calc d * c.columns.toNat + x < (d + 1) * c.columns.toNat := by rw [Nat.succ_mul]; omega
    _ ≤ c.descriptors * c.columns.toNat := Nat.mul_le_mul_right _ hd

/-- The word `BG_SHIFT` reads is the next one of the active buffer's region of `CUR`. -/
theorem State.Inv.shiftAddr_eq {s : State} (h : s.Inv) (hph : s.ph = .shift) :
    s.shiftAddr = s.cur.toNat * s.act.columns.toNat + s.shiftK.toNat ∧
    s.shiftWord = (s.buf s.active).readWord (s.cur.toNat * s.act.columns.toNat + s.shiftK.toNat) := by
  obtain ⟨-, -, hsrc, hoff, -⟩ := h.inFlight (by rw [hph]; rfl)
  have haddr : s.shiftAddr = s.cur.toNat * s.act.columns.toNat + s.shiftK.toNat := by rw [State.shiftAddr, hoff]
  exact ⟨haddr, by rw [State.shiftWord, hsrc, haddr]⟩

/-- `SHIFT_K` counts without overflow, and reaches `len` when the row's last word is out. -/
theorem State.Inv.shiftK_succ {s : State} (h : s.Inv) (hph : s.ph = .shift) :
    (s.shiftK + 1).toNat = s.shiftK.toNat + 1 ∧
    (s.shiftK + 1 = s.dreg.len ↔ s.shiftK.toNat + 1 = s.act.columns.toNat) := by
  obtain ⟨-, hb, -, -, hlen, -⟩ := h.inFlight (by rw [hph]; rfl)
  obtain ⟨-, hcols, -⟩ := hb.legal.bounds h.params
  have hroom := h.pulse.room hph
  have hsucc : (s.shiftK + 1).toNat = s.shiftK.toNat + 1 := by
    rw [BitVec.toNat_add, Nat.mod_eq_of_lt (by simp; omega)]; rfl
  exact ⟨hsucc, by rw [← BitVec.toNat_inj, hsucc, hlen]⟩

/-- After one more word the mirror holds one more word of the region. -/
theorem State.Inv.mirror_shiftOne {s : State} (h : s.Inv) (hph : s.ph = .shift) {x : Nat} (hx : x < s.shiftK.toNat + 1) :
    s.shiftOne.sr.readWord x = (s.buf s.active).readWord (s.cur.toNat * s.act.columns.toNat + x) := by
  obtain ⟨⟨-, -, hwf⟩, -⟩ := h.memory
  obtain ⟨-, hword⟩ := h.shiftAddr_eq hph
  rw [State.shiftOne_sr, Memory.readWord_writeWord hwf, hword]
  split
  case isTrue heq => rw [heq]
  case isFalse hne => exact h.pulse.mirror hph x (by omega)

theorem State.shiftOne_ph_eq_shift_iff {s : State} : s.shiftOne.ph = .shift ↔ s.shiftK + 1 ≠ s.dreg.len := by
  rw [State.shiftOne_ph]; split <;> simp_all

theorem State.shiftOne_ph_eq_latch_iff {s : State} : s.shiftOne.ph = .latch ↔ s.shiftK + 1 = s.dreg.len := by
  rw [State.shiftOne_ph]; split <;> simp_all

theorem State.Inv.shiftOne {s : State} (h : s.Inv) (hph : s.ph = .shift) : s.shiftOne.Inv := by
  obtain ⟨hsucc, hlast⟩ := h.shiftK_succ hph
  have hroom := h.pulse.room hph
  have hrun := h.running_of_ph hph (by decide)
  have hflight : s.ph.inFlight = true := by rw [hph]; rfl
  exact {
    params := h.params
    memory := h.memory.shiftOne
    built := fun hst => ⟨(h.built hst).legal, (h.built hst).table, (h.built hst).ring, (h.built hst).cur⟩
    unbuilt := fun hst => absurd (hrun.symm.trans hst) (by decide)
    running := by
      rw [State.shiftOne_st, State.shiftOne_ph]
      exact ⟨fun _ => by split <;> decide, fun _ => hrun⟩
    faultStops := h.faultStops
    stopRuns := h.stopRuns
    pulse := by
      refine ⟨fun _ => h.pulse.dreg hflight, fun hph' => ?room, fun _ x hx => ?mirror, fun hph' x hx => ?mirrored⟩
      case room =>
        have hmore := State.shiftOne_ph_eq_shift_iff.1 hph'
        rw [State.shiftOne_shiftK, State.shiftOne_act, hsucc]
        exact lt_of_le_of_ne hroom fun heq => hmore (hlast.2 heq)
      case mirror =>
        rw [State.shiftOne_shiftK, hsucc] at hx
        exact h.mirror_shiftOne hph hx
      case mirrored =>
        have hfull := State.shiftOne_ph_eq_latch_iff.1 hph'
        rw [State.shiftOne_act, ← hlast.1 hfull] at hx
        exact h.mirror_shiftOne hph hx
    pins := by
      refine ⟨rfl, h.pins.lat, h.pins.oeN, fun hph' => ?_⟩
      rw [Ne, State.shiftOne_ph_eq_shift_iff, not_not] at hph'
      rw [State.shiftOne_pins, hph', if_pos rfl]
    faultInfo := h.faultInfo }

/-- Past the shift phase the invariant asks nothing of a pulse but its descriptor, and the idle pins. -/
theorem State.Inv.afterShift {s : State} (h : s.Inv) (hflight : s.ph.inFlight = true) {p : Phase}
    (hp : p = .hold ∨ p = .done) {pins : Pins}
    (hpins : pins.clkOut = false ∧ pins.lat = false ∧ pins.oeN = true ∧ pins.data = 0) :
    ({ s with ph := p, pins := pins } : State).Inv := by
  obtain ⟨hclk, hlat, hoe, hdata⟩ := hpins
  obtain ⟨hrun, -⟩ := h.inFlight hflight
  have hoff : p ≠ .off := by obtain rfl | rfl := hp <;> decide
  have hshift : p ≠ .shift := by obtain rfl | rfl := hp <;> decide
  have hlatch : p ≠ .latch := by obtain rfl | rfl := hp <;> decide
  exact {
    params := h.params
    memory := h.memory
    built := fun hst => ⟨(h.built hst).legal, (h.built hst).table, (h.built hst).ring, (h.built hst).cur⟩
    unbuilt := fun hst => absurd (hrun.symm.trans hst) (by decide)
    running := ⟨fun _ => hoff, fun _ => hrun⟩
    faultStops := h.faultStops
    stopRuns := h.stopRuns
    pulse := ⟨fun _ => h.pulse.dreg hflight, fun hph => absurd hph hshift, fun hph => absurd hph hshift,
      fun hph => absurd hph hlatch⟩
    pins := ⟨hclk, hlat, hoe, fun _ => hdata⟩
    faultInfo := h.faultInfo }

theorem bgLatch_inv {s t : State} (hlatch : bgLatch s = .next t) (h : s.Inv) (hph : s.ph = .latch) : t.Inv := by
  cases hlatch
  have hdata := h.data_of_ph hph (by decide)
  have hpast := h.afterShift (by rw [hph]; rfl) (.inl rfl) (pins := { s.pins with addr := s.dreg.row, lat := false })
    ⟨h.pins.clkOut, rfl, h.pins.oeN, hdata⟩
  exact hpast.withUnseen s.cfg _ _ s.turns s.freeCount s.cmd s.rspReg s.rspValid

theorem bgHold_inv {s t : State} (hhold : bgHold s = .next t) (h : s.Inv) (hph : s.ph = .hold) : t.Inv := by
  cases hhold
  have hdata := h.data_of_ph hph (by decide)
  have hpast := h.afterShift (by rw [hph]; rfl) (.inr rfl) (pins := { s.pins with oeN := true })
    ⟨h.pins.clkOut, h.pins.lat, rfl, hdata⟩
  exact hpast.withUnseen s.cfg s.observed _ s.turns s.freeCount s.cmd s.rspReg s.rspValid

/-- The ring's links stay below `D` (rules R24 and R189). -/
theorem bgDone_inv {s t : State} (hdone : bgDone s = .next t) (h : s.Inv) (hph : s.ph = .done) : t.Inv := by
  cases hdone
  obtain ⟨hrun, hb, -, -, -, hnext⟩ := h.inFlight (by rw [hph]; rfl)
  exact {
    params := h.params
    memory := h.memory
    built := fun _ => ⟨hb.legal, hb.table, hb.ring, hnext ▸ Nat.mod_lt _ hb.legal.descriptors_pos⟩
    unbuilt := fun hst => absurd (hrun.symm.trans hst) (by decide)
    running := ⟨fun _ => nofun, fun _ => hrun⟩
    faultStops := h.faultStops
    stopRuns := h.stopRuns
    pulse := .of_not_inFlight rfl
    pins := ⟨h.pins.clkOut, h.pins.lat, h.pins.oeN, fun _ => h.data_of_ph hph (by decide)⟩
    faultInfo := h.faultInfo }

/-- Every step of the background agent keeps the invariant. -/
theorem background_inv {s t : State} (hb : background s = .next t) (h : s.Inv) : t.Inv := by
  obtain ⟨-, rfl⟩ | ⟨-, -, rfl⟩ | ⟨hph, -, -, rfl⟩ | ⟨hph, -, -, hfetch⟩ | ⟨hph, -, rfl⟩ | ⟨hph, hlatch⟩ | ⟨hph, hhold⟩ |
    ⟨hph, hdone⟩ := background_next hb
  · exact h
  · exact h
  · exact h.honourStop hph
  · obtain ⟨d, hd, rfl⟩ := State.loadDescriptor_next hfetch
    exact (h.boundary hph).load (s.boundary_ph.trans hph) hd
  · exact h.shiftOne hph
  · exact bgLatch_inv hlatch h hph
  · exact bgHold_inv hhold h hph
  · exact bgDone_inv hdone h hph

/-! ### The timeout and the reset -/

/-- The value `FAULT_INFO` takes, as a number: `(PH << 16) | CUR` (rule R35). -/
theorem State.faultWord_toNat (s : State) : s.faultWord.toNat = s.ph.code.toNat * 2 ^ 16 + s.cur.toNat := by
  simp only [State.faultWord, BitVec.toNat_append, BitVec.toNat_ofNat, Nat.zero_mod, Nat.zero_shiftLeft, Nat.zero_or]
  rw [← Nat.shiftLeft_add_eq_or_of_lt s.cur.isLt, Nat.shiftLeft_eq]

/-- A phase takes three bits above the sixteen of `CUR`. -/
theorem State.faultWord_lt (s : State) : s.faultWord.toNat < 2 ^ 19 := by
  have hph := s.ph.code.isLt
  have hcur := s.cur.isLt
  rw [State.faultWord_toNat]
  omega

theorem State.Inv.recordFault_restart {s : State} (h : s.Inv) (hst : s.st = .running) : s.recordFault.restart.Inv where
  params := h.params
  memory := h.memory
  built _ := by
    have hb := h.built_of_running hst
    exact ⟨hb.legal, hb.table, hb.ring, hb.legal.descriptors_pos⟩
  unbuilt hst' := absurd (hst.symm.trans hst') (by decide)
  running := ⟨fun _ => by simp, fun _ => hst⟩
  faultStops := h.faultStops
  stopRuns := h.stopRuns
  pulse := .of_not_inFlight rfl
  pins := ⟨rfl, rfl, rfl, fun _ => rfl⟩
  faultInfo := s.faultWord_lt

theorem State.Inv.recordFault_escalate {s : State} (h : s.Inv) (hst : s.st = .running) : s.recordFault.escalate.Inv := by
  have hb := h.built_of_running hst
  have hstopped : ({ s.recordFault with fault := true, st := .stopped, ph := .off, stopReq := false } : State).Inv := {
    params := h.params
    memory := h.memory
    built := fun _ => ⟨hb.legal, hb.table, hb.ring, hb.cur⟩
    unbuilt := nofun
    running := ⟨nofun, fun hph => absurd rfl hph⟩
    faultStops := fun _ => rfl
    stopRuns := nofun
    pulse := .of_not_inFlight rfl
    pins := ⟨rfl, rfl, rfl, fun _ => rfl⟩
    faultInfo := s.faultWord_lt }
  obtain ⟨hstop, heq⟩ | ⟨-, heq⟩ := s.recordFault.escalate_cases
  · rw [heq, hstop]; exact hstopped
  · rw [heq]; exact hstopped.emitRsp ..

theorem State.Inv.timeout {s : State} (h : s.Inv) : s.timeout.Inv := by
  obtain ⟨-, heq⟩ | ⟨henabled, -, heq⟩ | ⟨henabled, -, heq⟩ := s.timeout_cases
  · rw [heq]; exact h
  · obtain ⟨hst, -⟩ := s.timeoutEnabled_iff.1 henabled
    rw [heq]; exact h.abandonPulse.recordFault_restart (s.abandonPulse_st.trans hst)
  · obtain ⟨hst, -⟩ := s.timeoutEnabled_iff.1 henabled
    rw [heq]; exact h.abandonPulse.recordFault_escalate (s.abandonPulse_st.trans hst)

/-- The reset state meets the invariant, whatever the parameters in the ranges of rule R7. -/
theorem State.reset_inv {p : Params} (hp : p.Legal) : ({ State.reset with params := p } : State).Inv where
  params := hp
  memory := resetMemoriesAreCanonical
  built hst := absurd rfl hst
  unbuilt _ := ⟨rfl, rfl, rfl, rfl, rfl, rfl, rfl, rfl⟩
  running := ⟨nofun, fun hph => absurd rfl hph⟩
  faultStops := nofun
  stopRuns := nofun
  pulse := .of_not_inFlight rfl
  pins := ⟨rfl, rfl, rfl, fun _ => rfl⟩
  faultInfo := Nat.two_pow_pos 19

theorem State.Inv.applyReset {s : State} (h : s.Inv) : s.applyReset.Inv := by
  obtain ⟨wave, n, heq, -⟩ := s.applyReset_cases
  rw [heq]
  exact (State.reset_inv h.params).withUnseen ConfigRegs.zero s.observed wave s.turns n 0 0 false

/-! ### Every turn -/

theorem takeTurn_inv {tn : Turn} {s t : State} (ht : takeTurn tn s = .next t) (h : s.Inv) : t.Inv := by
  obtain ⟨w, -, -, rfl⟩ | ⟨w, -, -, heffect⟩ | ⟨-, hbackground⟩ | ⟨-, rfl⟩ | ⟨-, rfl⟩ := takeTurn_next ht
  · exact h
  · exact heffect.inv (h.withCmd w)
  · exact background_inv hbackground h
  · exact h.timeout
  · exact h.applyReset

/-- Settles O38: turn by turn; the turn fields are not the invariant's. -/
theorem stepKeepsTheInvariant : Obligations.StepKeepsTheInvariant := by
  intro s t h hstep
  obtain ⟨tn, ts, n, hturn⟩ := step_next hstep
  exact takeTurn_inv hturn (h.withPort ts n s.cmd s.rspReg false)

/-- Settles O39: the parameters of `State.reset` are in the ranges of rule R7 by their types. -/
theorem resetMeetsTheInvariant : Obligations.ResetMeetsTheInvariant :=
  State.reset_inv (p := State.reset.params) ⟨Nat.le_add_left .., Config.maxColumnsPred.isLt, Nat.le_add_left ..⟩

/-! ### Every turn completes -/

theorem ConfigRegs.pixelInSpace_iff {c : ConfigRegs} {x y : Nat} :
    c.pixelInSpace x y = true ↔ ∀ b, b < c.planes → c.wordAddr (c.scanRowOf y) b x < c.bufWords := by
  simp [ConfigRegs.pixelInSpace, ConfigRegs.inBufferSpace]

/-- In bounds, every word address of a pixel is in the buffer space (rules R60 and R70). -/
theorem ConfigRegs.pixelInSpace_of_lt {c : ConfigRegs} {x : Nat} (hx : x < c.columns.toNat) (hH : 0 < c.scanRows) (y : Nat) :
    c.pixelInSpace x y = true :=
  ConfigRegs.pixelInSpace_iff.2 fun _ hb => ConfigRegs.wordAddr_lt hx hH hb

theorem ConfigRegs.inBounds_eq_true_iff (c : ConfigRegs) (x y : BitVec 16) :
    c.inBounds x y = true ↔ x.toNat < c.columns.toNat ∧ y.toNat < c.rows.toNat := by
  simp [ConfigRegs.inBounds]

/-- In a legal engine the own rule of `SETPX` completes, in bounds or not. -/
theorem setpxOwn_completes {s : State} (hlegal : s.act.Legal s.params) (x y : BitVec 16) (r g b : BitVec 8) :
    ∃ t, setpxOwn x y r g b s = .next t := by
  unfold setpxOwn
  split
  case isFalse => exact ⟨_, rfl⟩
  case isTrue hbounds =>
    obtain ⟨hx, -⟩ := (s.act.inBounds_eq_true_iff x y).1 hbounds
    exact ⟨_, if_pos (ConfigRegs.pixelInSpace_of_lt hx hlegal.scanRows_pos y.toNat)⟩

/-- Only `SETPX` can fault, and it is accepted only in a built engine (rule R240). -/
theorem exec_completes {s : State} (h : s.Inv) (i : Instr) : ∃ t, exec i s = .next t := by
  rw [exec_eq_command]
  obtain ⟨-, hcmd⟩ | ⟨-, -, hcmd⟩ | ⟨-, hacc, hcmd⟩ := s.command_cases i (ownRule s i)
  · exact ⟨_, hcmd⟩
  · exact ⟨_, hcmd⟩
  · rw [hcmd]
    cases i with
    | setpx x y r g b =>
      have hst : s.st ≠ .uninitialized := fun hst => by simp [hst, accepts] at hacc
      exact setpxOwn_completes (h.built hst).legal x y r g b
    | wrcfg idx v => exact ⟨_, rfl⟩
    | rdreg idx => exact ⟨_, rfl⟩
    | init => exact ⟨_, rfl⟩
    | lookup ch v => exact ⟨_, rfl⟩
    | clear => exact ⟨_, rfl⟩
    | commit => exact ⟨_, rfl⟩
    | start => exact ⟨_, rfl⟩
    | stop => exact ⟨_, rfl⟩

theorem executeWord_completes {s : State} (h : s.Inv) (w : Word64) : ∃ t, executeWord w s = .next t := by
  unfold executeWord
  split
  case h_1 i _ => exact exec_completes h i
  case h_2 => exact ⟨_, rfl⟩

/-- Each phase's step completes: the ring has the entry a fetch loads, and the region the words a shift reads. -/
theorem background_completes {s : State} (h : s.Inv) : ∃ t, background s = .next t := by
  cases hph : s.ph with
  | off => exact ⟨_, background_of_off hph⟩
  | latch => exact ⟨_, background_of_latch hph⟩
  | hold => exact ⟨_, background_of_hold hph⟩
  | done => exact ⟨_, background_of_done hph⟩
  | fetch =>
    have hrun := h.running_of_ph hph (by decide)
    rw [background_of_fetch hph hrun]
    cases hstop : s.stopReq
    case true => exact ⟨_, bgFetch_of_stopReq hstop⟩
    case false =>
      have hentry := (h.boundary hph).desc_cur (s.boundary_st.trans hrun)
      exact ⟨_, (bgFetch_of_not_stopReq hstop).trans (State.loadDescriptor_of_entry hentry)⟩
  | shift =>
    have hb := h.built_of_running (h.running_of_ph hph (by decide))
    obtain ⟨haddr, -⟩ := h.shiftAddr_eq hph
    have hspace : s.shiftAddr < s.act.bufWords := haddr ▸ ConfigRegs.region_lt hb.cur (h.pulse.room hph)
    exact ⟨_, (background_of_shift hph).trans (bgShift_of_inSpace hspace)⟩

theorem takeTurn_completes {s : State} (h : s.Inv) (tn : Turn) : ∃ t, takeTurn tn s = .next t := by
  cases tn with
  | command w =>
    cases hstop : s.stopReq
    case true => exact ⟨s, takeTurn_command_of_waiting hstop w⟩
    case false => rw [takeTurn_command_of_ready hstop]; exact executeWord_completes (h.withCmd w) w
  | background => exact background_completes h
  | timeout => exact ⟨_, rfl⟩
  | reset => exact ⟨_, rfl⟩

/-- Settles O40: the addresses and the entries a turn can form are the ones the invariant bounds. -/
theorem stepCompletesUnderTheInvariant : Obligations.StepCompletesUnderTheInvariant := by
  intro s h
  obtain ⟨ts, n, hstate⟩ := s.nextTurn_state
  have hturn := takeTurn_completes (h.withPort ts n s.cmd s.rspReg false) s.nextTurn.1
  rwa [step, hstate]

end Sys2Proof.Machine
end

section
/-! Swap atomicity (spec/20_memory.md, rule R74): `ACTIVE` changes only between cycles, so the records of one cycle carry one
buffer. -/

namespace Sys2Proof.Machine

/-! ### The cycle in progress -/

theorem State.midCycle_congr {s t : State} (hph : t.ph = s.ph) (hcur : t.cur = s.cur) : t.midCycle = s.midCycle := by
  simp [State.midCycle, hph, hcur]

/-- Up to the first latch of a cycle `CUR` is 0. -/
theorem State.midCycle_iff_cur {s : State} (hph : s.ph = .fetch ∨ s.ph = .shift ∨ s.ph = .latch) :
    s.midCycle = true ↔ s.cur ≠ 0 := by
  obtain hph | hph | hph := hph <;> simp [State.midCycle, hph]

/-- No cycle is in progress where the chain is off. -/
theorem State.midCycle_of_off {s : State} (hph : s.ph = .off) : s.midCycle = false := by
  simp [State.midCycle, hph]

theorem State.shiftOne_midCycle {s : State} (hph : s.ph = .shift) : s.shiftOne.midCycle = s.midCycle := by
  have hnext : s.shiftOne.ph = .shift ∨ s.shiftOne.ph = .latch := by
    rw [State.shiftOne_ph]; split <;> simp
  rw [Bool.eq_iff_iff, State.midCycle_iff_cur (.inr hnext), State.midCycle_iff_cur (.inr (.inl hph)), State.shiftOne_cur]

/-! ### Turns that emit no `PULSE` -/

/-- `t` comes from `s` by a turn that emits no `PULSE` record, and no cycle goes on in `t` but one of `s`, on the same buffer. -/
structure State.QuietTo (s t : State) : Prop where
  untorn : Untorn none s.observed → Untorn none t.observed
  cycle : t.midCycle = true →
    s.midCycle = true ∧ t.active = s.active ∧ cycleBuf none t.observed = cycleBuf none s.observed

theorem State.SwapInv.of_quietTo {s t : State} (h : s.SwapInv) (hinv : t.Inv) (hq : s.QuietTo t) : t.SwapInv where
  inv := hinv
  untorn := hq.untorn h.untorn
  current hmid := by
    obtain ⟨hmid', hactive, hbuf⟩ := hq.cycle hmid
    rw [hbuf, hactive, h.current hmid']

/-- A turn that emits nothing. -/
theorem State.QuietTo.of_silent {s t : State} (hobs : t.observed = s.observed)
    (hmid : t.midCycle = true → s.midCycle = true ∧ t.active = s.active) : s.QuietTo t where
  untorn h := hobs ▸ h
  cycle ht := ⟨(hmid ht).1, (hmid ht).2, by rw [hobs]⟩

/-- A response is part of no cycle (rule R12). -/
theorem State.QuietTo.emitRsp {s u : State} (h : s.QuietTo u) (a : BitVec 8) (d : Reg32) : s.QuietTo (u.emitRsp a d) where
  untorn hs := by
    rw [State.emitRsp_observed, untorn_append]
    exact ⟨h.untorn hs, trivial⟩
  cycle hmid := by
    obtain ⟨hmid', hactive, hbuf⟩ := h.cycle ((State.midCycle_congr rfl rfl).trans hmid)
    exact ⟨hmid', hactive, by rw [State.emitRsp_observed, cycleBuf_append, ← hbuf]; rfl⟩

/-- A turn that takes the chain out of the cycle in progress, if any, after some records that are no pulse. -/
theorem State.QuietTo.of_cut {s t : State} {rs : List Record} (hobs : t.observed = s.observed ++ rs)
    (hrs : ∀ k, Untorn k rs) (hmid : t.midCycle = false) : s.QuietTo t where
  untorn h := by
    rw [hobs, untorn_append]
    exact ⟨h, hrs _⟩
  cycle ht := absurd (hmid.symm.trans ht) (by decide)

/-- A turn that emits nothing and leaves the chain where it is. -/
theorem State.QuietTo.of_frame {s t : State} (hobs : t.observed = s.observed) (hph : t.ph = s.ph) (hcur : t.cur = s.cur)
    (hactive : t.active = s.active) : s.QuietTo t :=
  .of_silent hobs fun hmid => ⟨(State.midCycle_congr hph hcur).symm.trans hmid, hactive⟩

theorem State.quietTo_withBuf (s : State) (k : BufId) (m : Memory) : s.QuietTo (s.withBuf k m) :=
  .of_frame (s.withBuf_observed k m) (s.withBuf_ph k m) (s.withBuf_cur k m) (s.withBuf_active k m)

/-- Commands emit responses only; `INIT` and `START` begin with no cycle, the others leave the chain where it is. -/
theorem CommandEffect.quietTo {s t : State} (he : CommandEffect s t) : s.QuietTo t := by
  cases he with
  | answer a d => exact (State.QuietTo.of_frame (s := s) (t := s) rfl rfl rfl rfl).emitRsp a d
  | config c => exact (State.QuietTo.of_frame (s := s) (t := { s with cfg := c }) rfl rfl rfl rfl).emitRsp ..
  | built => exact (State.QuietTo.of_silent (s := s) (t := s.build) rfl nofun).emitRsp ..
  | counted =>
    exact (State.QuietTo.of_frame (s := s) (t := { s with oobCount := saturatingInc s.oobCount }) rfl rfl rfl rfl).emitRsp ..
  | pixel => exact (s.quietTo_withBuf ..).emitRsp ..
  | cleared => exact (s.quietTo_withBuf ..).emitRsp ..
  | committed => exact (State.QuietTo.of_frame (s := s) (t := { s with pending := true }) rfl rfl rfl rfl).emitRsp ..
  | started => exact (State.QuietTo.of_silent (s := s) (t := s.startChain) rfl nofun).emitRsp ..
  | stopping => exact .of_frame rfl rfl rfl rfl

/-- A fetch adopts only at `CUR = 0`, where no cycle is in progress (rule R166). -/
theorem State.quietTo_fetch {s : State} (hph : s.ph = .fetch) (d : Descriptor) :
    s.QuietTo { s.boundary with dreg := d, shiftK := 0, ph := .shift } := by
  refine .of_silent s.boundary_observed fun hmid => ?_
  have hcur : s.cur ≠ 0 := by
    rw [State.midCycle_iff_cur (.inr (.inl rfl))] at hmid
    exact fun hzero => hmid (s.boundary_cur.trans hzero)
  obtain ⟨hzero, -⟩ | ⟨-, heq⟩ := s.boundary_cases
  · exact absurd hzero hcur
  · exact ⟨(State.midCycle_iff_cur (.inl hph)).2 hcur, by rw [heq]⟩

@[simp] theorem State.escalate_ph (s : State) : s.escalate.ph = .off := by
  unfold State.escalate; split <;> rfl

theorem State.timeout_quietTo (s : State) : s.QuietTo s.timeout := by
  obtain ⟨-, heq⟩ | ⟨-, -, heq⟩ | ⟨-, -, heq⟩ := s.timeout_cases
  · rw [heq]; exact .of_silent rfl fun hmid => ⟨hmid, rfl⟩
  · rw [heq]; exact .of_cut (rs := [.abort s.cur]) (by simp) (fun _ => trivial) rfl
  · have hmid : s.abandonPulse.recordFault.escalate.midCycle = false := State.midCycle_of_off (by simp)
    rw [heq]
    obtain ⟨-, hesc⟩ | ⟨-, hesc⟩ := s.abandonPulse.recordFault.escalate_cases
    · exact .of_cut (rs := [.abort s.cur]) (by simp [hesc]) (fun _ => trivial) hmid
    · exact .of_cut (rs := [.abort s.cur, .rsp ErrorKind.sequencerFault.code 0]) (by simp [hesc]) (fun _ => trivial) hmid

/-! ### The latch -/

/-- Descriptor 0 is row 0, plane 0. -/
theorem descriptorFor_zero_rowPlane (c : ConfigRegs) (k : BufId) :
    (descriptorFor c k 0).row = 0 ∧ (descriptorFor c k 0).plane = 0 := by
  simp [descriptorFor]

/-- The record of a latch is of descriptor 0, or continues the cycle in progress on its buffer. -/
theorem State.SwapInv.bgLatch {s t : State} (h : s.SwapInv) (hph : s.ph = .latch) (hlatch : bgLatch s = .next t) :
    t.SwapInv := by
  have hflight : s.ph.inFlight = true := by rw [hph]; rfl
  have hinv : t.Inv := bgLatch_inv hlatch h.inv hph
  obtain ⟨-, -, hsrc, -⟩ := h.inv.inFlight hflight
  cases hlatch
  refine ⟨hinv, ?untorn, fun _ => ?current⟩
  case untorn =>
    rw [untorn_append]
    refine ⟨h.untorn, ?_, trivial⟩
    by_cases hcur : s.cur = 0
    · have hdreg := h.inv.pulse.dreg hflight
      rw [hcur] at hdreg
      rw [hdreg]
      exact .inl (descriptorFor_zero_rowPlane s.act s.active)
    · rw [hsrc]
      exact .inr (h.current ((State.midCycle_iff_cur (.inr (.inr hph))).2 hcur))
  case current => rw [cycleBuf_append, hsrc]; rfl

/-- Every step of the background agent keeps every cycle on one buffer. -/
theorem State.SwapInv.background {s t : State} (h : s.SwapInv) (hb : background s = .next t) : t.SwapInv := by
  have hinv : t.Inv := background_inv hb h.inv
  obtain ⟨-, rfl⟩ | ⟨-, -, rfl⟩ | ⟨-, -, -, rfl⟩ | ⟨hph, -, -, hfetch⟩ | ⟨hph, -, rfl⟩ | ⟨hph, hlatch⟩ | ⟨hph, hhold⟩ |
    ⟨hph, hdone⟩ := background_next hb
  · exact h
  · exact h
  · exact h.of_quietTo hinv (.of_cut (rs := [.rsp statusOk 0]) rfl (fun _ => trivial) rfl)
  · obtain ⟨d, -, rfl⟩ := State.loadDescriptor_next hfetch
    exact h.of_quietTo hinv (State.quietTo_fetch hph d)
  · exact h.of_quietTo hinv (.of_silent rfl fun hmid => ⟨(State.shiftOne_midCycle hph).symm.trans hmid, rfl⟩)
  · exact h.bgLatch hph hlatch
  · cases hhold
    exact h.of_quietTo hinv (.of_silent rfl fun _ => ⟨by simp [State.midCycle, hph], rfl⟩)
  · cases hdone
    exact h.of_quietTo hinv (.of_silent rfl fun _ => ⟨by simp [State.midCycle, hph], rfl⟩)

/-! ### Every turn -/

theorem takeTurn_swapInv {tn : Turn} {s t : State} (ht : takeTurn tn s = .next t) (h : s.SwapInv) : t.SwapInv := by
  have hinv : t.Inv := takeTurn_inv ht h.inv
  obtain ⟨w, -, -, rfl⟩ | ⟨w, -, -, heffect⟩ | ⟨-, hbackground⟩ | ⟨-, rfl⟩ | ⟨-, rfl⟩ := takeTurn_next ht
  · exact h
  · have hlatched : ({ s with cmd := w } : State).SwapInv := ⟨h.inv.withCmd w, h.untorn, h.current⟩
    exact hlatched.of_quietTo hinv heffect.quietTo
  · exact h.background hbackground
  · exact h.of_quietTo hinv s.timeout_quietTo
  · exact h.of_quietTo hinv (.of_silent rfl nofun)

/-- Settles O43: turn by turn; only a latch adds a pulse record, and only a fetch at `CUR = 0` changes the buffer. -/
theorem stepKeepsCyclesUntorn : Obligations.StepKeepsCyclesUntorn := by
  intro s t h hstep
  obtain ⟨tn, ts, n, hturn⟩ := step_next hstep
  exact takeTurn_swapInv hturn ⟨h.inv.withPort ts n s.cmd s.rspReg false, h.untorn, h.current⟩

/-- Settles O44: nothing has been observed, and the chain is off. -/
theorem resetCyclesAreUntorn : Obligations.ResetCyclesAreUntorn :=
  ⟨resetMeetsTheInvariant, trivial, nofun⟩

end Sys2Proof.Machine
end

section
/-! Who may write what (rules R63, R166, R182 and R244): the buffers, the engine state, the tables and `ACTIVE`, agent by agent. -/

namespace Sys2Proof.Machine

/-! ### The buffers (rule R63) -/

theorem State.buf_congr {s t : State} (hA : t.bufA = s.bufA) (hB : t.bufB = s.bufB) (k : BufId) : t.buf k = s.buf k := by
  cases k
  case A => exact hA
  case B => exact hB

/-- The commands that write a buffer. -/
theorem InstrEffect.buffers {i : Instr} {s t : State} (he : InstrEffect s i t) :
    (t.bufA = s.bufA ∧ t.bufB = s.bufB) ∨ (i = .init ∧ s.st ≠ .running) ∨
    ((i = .clear ∨ ∃ x y r g b, i = .setpx x y r g b) ∧ t.buf s.active = s.buf s.active) := by
  cases he with
  | answer => exact .inl ⟨rfl, rfl⟩
  | config => exact .inl ⟨rfl, rfl⟩
  | built hst => exact .inr (.inl ⟨rfl, hst⟩)
  | counted => exact .inl ⟨rfl, rfl⟩
  | pixel x y r g b => exact .inr (.inr ⟨.inr ⟨x, y, r, g, b, rfl⟩, s.withBuf_writable_active _⟩)
  | cleared => exact .inr (.inr ⟨.inl rfl, s.withBuf_writable_active _⟩)
  | committed => exact .inl ⟨rfl, rfl⟩
  | started => exact .inl ⟨rfl, rfl⟩
  | stopping => exact .inl ⟨rfl, rfl⟩

/-- The background agent only reads the buffers (rule R63). -/
theorem background_buffers {s t : State} (hb : background s = .next t) : t.bufA = s.bufA ∧ t.bufB = s.bufB := by
  obtain ⟨-, rfl⟩ | ⟨-, -, rfl⟩ | ⟨-, -, -, rfl⟩ | ⟨-, -, -, hfetch⟩ | ⟨-, -, rfl⟩ | ⟨-, hlatch⟩ | ⟨-, hhold⟩ |
    ⟨-, hdone⟩ := background_next hb
  · exact ⟨rfl, rfl⟩
  · exact ⟨rfl, rfl⟩
  · exact ⟨rfl, rfl⟩
  · obtain ⟨d, -, rfl⟩ := State.loadDescriptor_next hfetch
    exact ⟨s.boundary_bufA, s.boundary_bufB⟩
  · exact ⟨rfl, rfl⟩
  · cases hlatch; exact ⟨rfl, rfl⟩
  · cases hhold; exact ⟨rfl, rfl⟩
  · cases hdone; exact ⟨rfl, rfl⟩

/-- The turns that write a buffer. -/
theorem takeTurn_buffers {tn : Turn} {s t : State} (h : takeTurn tn s = .next t) :
    (t.bufA = s.bufA ∧ t.bufB = s.bufB) ∨ tn = .reset ∨
    (∃ w, tn = .command w ∧ decode w = .ok .init ∧ s.st ≠ .running) ∨
    (∃ w i, tn = .command w ∧ decode w = .ok i ∧ (i = .clear ∨ ∃ x y r g b, i = .setpx x y r g b) ∧
      t.buf s.active = s.buf s.active) := by
  cases tn with
  | command w =>
    obtain rfl | rfl | ⟨i, hdecode, heffect⟩ := takeTurn_command_effect h
    · exact .inl ⟨rfl, rfl⟩
    · exact .inl ⟨rfl, rfl⟩
    · obtain hkeep | ⟨rfl, hst⟩ | ⟨hi, hactive⟩ := heffect.buffers
      · exact .inl hkeep
      · exact .inr (.inr (.inl ⟨w, rfl, hdecode, hst⟩))
      · exact .inr (.inr (.inr ⟨w, i, rfl, hdecode, hi, hactive⟩))
  | background => exact .inl (background_buffers h)
  | timeout => cases h; exact .inl ⟨s.timeout_bufA, s.timeout_bufB⟩
  | reset => exact .inr (.inl rfl)

/-- Settles O45: of the turns that write a buffer only `rst` and `INIT` write the active one, and `INIT` is refused while
`Running`. -/
theorem onlyForegroundWritesReachTheBuffers : Obligations.OnlyForegroundWritesReachTheBuffers := by
  refine fun tn s t h => ⟨takeTurn_buffers h, fun hrun hreset => ?_⟩
  obtain ⟨hA, hB⟩ | rfl | ⟨w, -, -, hst⟩ | ⟨w, i, -, -, -, hactive⟩ := takeTurn_buffers h
  · exact State.buf_congr hA hB s.active
  · exact absurd rfl hreset
  · exact absurd hrun hst
  · exact hactive

/-! ### The engine state (rule R244) -/

theorem InstrEffect.st {i : Instr} {s t : State} (he : InstrEffect s i t) :
    t.st = s.st ∨ (s.st ≠ .running ∧ t.st = .ready ∧ i = .init ∧ s.cfg.Legal s.params) ∨
    ((s.st = .ready ∨ s.st = .stopped) ∧ t.st = .running ∧ i = .start) := by
  cases he with
  | answer => exact .inl rfl
  | config => exact .inl rfl
  | built hst hlegal => exact .inr (.inl ⟨hst, rfl, rfl, hlegal⟩)
  | counted => exact .inl rfl
  | pixel => exact .inl (s.withBuf_st ..)
  | cleared => exact .inl (s.withBuf_st ..)
  | committed => exact .inl rfl
  | started hst => exact .inr (.inr ⟨hst, rfl, rfl⟩)
  | stopping => exact .inl rfl

/-- The background agent leaves `Running` only at a fetch that honours a stop (rules R187 and R247). -/
theorem background_st {s t : State} (hb : background s = .next t) :
    t.st = s.st ∨ (s.st = .running ∧ t.st = .stopped ∧ s.ph = .fetch ∧ s.stopReq = true) := by
  obtain ⟨-, rfl⟩ | ⟨-, -, rfl⟩ | ⟨hph, hst, hstop, rfl⟩ | ⟨-, -, -, hfetch⟩ | ⟨-, -, rfl⟩ | ⟨-, hlatch⟩ | ⟨-, hhold⟩ |
    ⟨-, hdone⟩ := background_next hb
  · exact .inl rfl
  · exact .inl rfl
  · exact .inr ⟨hst, rfl, hph, hstop⟩
  · obtain ⟨d, -, rfl⟩ := State.loadDescriptor_next hfetch
    exact .inl s.boundary_st
  · exact .inl rfl
  · cases hlatch; exact .inl rfl
  · cases hhold; exact .inl rfl
  · cases hdone; exact .inl rfl

@[simp] theorem State.escalate_st (s : State) : s.escalate.st = .stopped := by
  unfold State.escalate; split <;> rfl

/-- A `TIMEOUT` stops the engine only by escalating (rule R278). -/
theorem State.timeout_st (s : State) :
    s.timeout.st = s.st ∨
    (s.st = .running ∧ s.timeout.st = .stopped ∧ s.ph.inFlight = true ∧ s.retryUsed = true) := by
  obtain ⟨-, heq⟩ | ⟨-, -, heq⟩ | ⟨henabled, hretry, heq⟩ := s.timeout_cases
  · exact .inl (by rw [heq])
  · exact .inl (by simp [heq])
  · obtain ⟨hst, hph⟩ := s.timeoutEnabled_iff.1 henabled
    exact .inr ⟨hst, by simp [heq], hph, hretry⟩

/-- Settles O47: agent by agent. -/
theorem engineStateChangesOnlyAsListed : Obligations.EngineStateChangesOnlyAsListed := by
  intro tn s t h
  cases tn with
  | command w =>
    obtain rfl | rfl | ⟨i, hdecode, heffect⟩ := takeTurn_command_effect h
    · exact .inl rfl
    · exact .inl rfl
    · obtain hkeep | ⟨hst, hready, rfl, hlegal⟩ | ⟨hst, hrun, rfl⟩ := heffect.st
      · exact .inl hkeep
      · exact .inr (.inl ⟨hst, hready, ⟨w, rfl, hdecode⟩, hlegal⟩)
      · exact .inr (.inr (.inl ⟨hst, hrun, w, rfl, hdecode⟩))
  | background =>
    obtain hkeep | ⟨hst, hstopped, hph, hstop⟩ := background_st h
    · exact .inl hkeep
    · exact .inr (.inr (.inr (.inl ⟨hst, hstopped, rfl, hph, hstop⟩)))
  | timeout =>
    cases h
    obtain hkeep | ⟨hst, hstopped, hph, hretry⟩ := s.timeout_st
    · exact .inl hkeep
    · exact .inr (.inr (.inr (.inr (.inl ⟨hst, hstopped, rfl, hph, hretry⟩))))
  | reset => cases h; exact .inr (.inr (.inr (.inr (.inr ⟨rfl, rfl⟩))))

/-! ### The tables (rules R31, R120 and R182) -/

/-- The table, the active configuration and every descriptor but for its `src_buf` are the same in `t` as in `s`. -/
def State.SameTables (s t : State) : Prop :=
  t.lut = s.lut ∧ t.act = s.act ∧
    ∀ (d : Nat) (e : Descriptor), s.desc[d]? = some e → ∃ k, t.desc[d]? = some { e with srcBuf := k }

theorem State.SameTables.of_eq {s t : State} (hlut : t.lut = s.lut) (hact : t.act = s.act) (hdesc : t.desc = s.desc) :
    s.SameTables t :=
  ⟨hlut, hact, fun _ e he => ⟨e.srcBuf, hdesc ▸ he⟩⟩

theorem State.sameTables_withBuf (s : State) (k : BufId) (m : Memory) : s.SameTables (s.withBuf k m) :=
  .of_eq (s.withBuf_lut k m) (s.withBuf_act k m) (s.withBuf_desc k m)

theorem InstrEffect.tables {i : Instr} {s t : State} (he : InstrEffect s i t) :
    s.SameTables t ∨ (t.act = s.cfg ∧ s.cfg.Legal s.params ∧ s.st ≠ .running ∧ i = .init) := by
  cases he with
  | answer => exact .inl (.of_eq rfl rfl rfl)
  | config => exact .inl (.of_eq rfl rfl rfl)
  | built hst hlegal => exact .inr ⟨rfl, hlegal, hst, rfl⟩
  | counted => exact .inl (.of_eq rfl rfl rfl)
  | pixel => exact .inl (s.sameTables_withBuf ..)
  | cleared => exact .inl (s.sameTables_withBuf ..)
  | committed => exact .inl (.of_eq rfl rfl rfl)
  | started => exact .inl (.of_eq rfl rfl rfl)
  | stopping => exact .inl (.of_eq rfl rfl rfl)

/-- The boundary work re-points descriptors and changes nothing else of the tables (rule R166). -/
theorem State.sameTables_boundary (s : State) : s.SameTables s.boundary := by
  obtain ⟨-, -, heq⟩ | ⟨-, heq⟩ := s.boundary_cases
  · refine ⟨s.boundary_lut, s.boundary_act, fun d e he => ?_⟩
    rw [heq, State.adopt_desc, repoint_get?, he, Option.map_some]
    split
    case isTrue => exact ⟨s.active.other, rfl⟩
    case isFalse => exact ⟨e.srcBuf, rfl⟩
  · rw [heq]; exact .of_eq rfl rfl rfl

theorem background_sameTables {s t : State} (hb : background s = .next t) : s.SameTables t := by
  obtain ⟨-, rfl⟩ | ⟨-, -, rfl⟩ | ⟨-, -, -, rfl⟩ | ⟨-, -, -, hfetch⟩ | ⟨-, -, rfl⟩ | ⟨-, hlatch⟩ | ⟨-, hhold⟩ |
    ⟨-, hdone⟩ := background_next hb
  · exact .of_eq rfl rfl rfl
  · exact .of_eq rfl rfl rfl
  · exact .of_eq rfl rfl rfl
  · obtain ⟨d, -, rfl⟩ := State.loadDescriptor_next hfetch
    exact s.sameTables_boundary
  · exact .of_eq rfl rfl rfl
  · cases hlatch; exact .of_eq rfl rfl rfl
  · cases hhold; exact .of_eq rfl rfl rfl
  · cases hdone; exact .of_eq rfl rfl rfl

/-- Settles O48: agent by agent. -/
theorem tablesChangeOnlyByInit : Obligations.TablesChangeOnlyByInit := by
  intro tn s t h
  cases tn with
  | command w =>
    obtain rfl | rfl | ⟨i, hdecode, heffect⟩ := takeTurn_command_effect h
    · exact .inl (State.SameTables.of_eq rfl rfl rfl)
    · exact .inl (State.SameTables.of_eq rfl rfl rfl)
    · obtain hkeep | ⟨hact, hlegal, hst, rfl⟩ := heffect.tables
      · exact .inl hkeep
      · exact .inr (.inr ⟨hact, hlegal, hst, w, rfl, hdecode⟩)
  | background => exact .inl (background_sameTables h)
  | timeout => cases h; exact .inl (State.SameTables.of_eq s.timeout_lut s.timeout_act s.timeout_desc)
  | reset => exact .inr (.inl rfl)

/-! ### `ACTIVE` (rules R22 and R166) -/

theorem InstrEffect.active {i : Instr} {s t : State} (he : InstrEffect s i t) :
    t.active = s.active ∨ (t.active = .A ∧ i = .init ∧ s.st ≠ .running) := by
  cases he with
  | answer => exact .inl rfl
  | config => exact .inl rfl
  | built hst => exact .inr ⟨rfl, rfl, hst⟩
  | counted => exact .inl rfl
  | pixel => exact .inl (s.withBuf_active ..)
  | cleared => exact .inl (s.withBuf_active ..)
  | committed => exact .inl rfl
  | started => exact .inl rfl
  | stopping => exact .inl rfl

/-- The background agent flips `ACTIVE` only by adopting a pending swap. -/
theorem background_active {s t : State} (hb : background s = .next t) :
    t.active = s.active ∨
    (s.st = .running ∧ s.ph = .fetch ∧ s.cur = 0 ∧ s.pending = true ∧ s.stopReq = false ∧
      t.active = s.active.other ∧ t.pending = false) := by
  obtain ⟨-, rfl⟩ | ⟨-, -, rfl⟩ | ⟨-, -, -, rfl⟩ | ⟨hph, hst, hstop, hfetch⟩ | ⟨-, -, rfl⟩ | ⟨-, hlatch⟩ | ⟨-, hhold⟩ |
    ⟨-, hdone⟩ := background_next hb
  · exact .inl rfl
  · exact .inl rfl
  · exact .inl rfl
  · obtain ⟨d, -, rfl⟩ := State.loadDescriptor_next hfetch
    obtain ⟨hcur, hpending, heq⟩ | ⟨-, heq⟩ := s.boundary_cases
    · rw [heq]; exact .inr ⟨hst, hph, hcur, hpending, hstop, rfl, rfl⟩
    · rw [heq]; exact .inl rfl
  · exact .inl rfl
  · cases hlatch; exact .inl rfl
  · cases hhold; exact .inl rfl
  · cases hdone; exact .inl rfl

/-- Settles O49: agent by agent. -/
theorem activeFlipsOnlyAtACycleBoundary : Obligations.ActiveFlipsOnlyAtACycleBoundary := by
  intro tn s t h
  cases tn with
  | command w =>
    obtain rfl | rfl | ⟨i, hdecode, heffect⟩ := takeTurn_command_effect h
    · exact .inl rfl
    · exact .inl rfl
    · obtain hkeep | ⟨hactive, rfl, hst⟩ := heffect.active
      · exact .inl hkeep
      · exact .inr (.inr ⟨hactive, .inr ⟨w, rfl, hdecode, hst⟩⟩)
  | background => exact (background_active h).imp_right fun hflip => .inl ⟨rfl, hflip⟩
  | timeout => cases h; exact .inl s.timeout_active
  | reset => cases h; exact .inr (.inr ⟨rfl, .inl rfl⟩)

end Sys2Proof.Machine
end

section
/-! The commands, one by one (spec/40 to spec/45): what an accepted command with legal operands answers, changes and leaves. -/

namespace Sys2Proof.Machine

/-! ### The guard passed (rule R95) -/

/-- An accepted command with legal operands follows its own rule. -/
theorem exec_eq_ownRule {i : Instr} {s : State} (hi : i.wellFormed = true) (hacc : accepts i s.st = true) :
    exec i s = ownRule s i := by
  rw [exec_eq_command, State.command_own _ ((restricted_eq_none_iff i).2 hi) hacc]

/-- The commands that need a built engine and nothing more (rule R240). -/
theorem accepts_of_ne_uninitialized {i : Instr} (hi : acceptedIn i = [.ready, .running, .stopped]) {st : EngineState}
    (hst : st ≠ .uninitialized) : accepts i st = true := by
  rw [accepts_iff_mem_acceptedIn, hi]
  cases st
  case uninitialized => exact absurd rfl hst
  case ready => simp
  case running => simp
  case stopped => simp

/-! ### `WRCFG` and `RDREG` (rules R36, R241 and R242) -/

/-- A register write is a write of the register named and of no other. -/
theorem ConfigRegs.read_write {c d : ConfigRegs} {idx : BitVec 8} {v : Reg32} (h : c.write idx v = some d) {n : Nat}
    (hn : n ≤ 6) : d.read n = if n = idx.toNat then some v else c.read n := by
  unfold ConfigRegs.write at h
  split at h <;> cases h <;> rename_i hidx <;> rw [hidx] <;> interval_cases n <;> rfl

theorem exec_wrcfg {s : State} {idx : BitVec 8} {v : Reg32} {c : ConfigRegs} (hidx : idx.toNat ≤ 6)
    (hst : s.st ≠ .running) (hc : s.cfg.write idx v = some c) :
    exec (.wrcfg idx v) s = .next ({ s with cfg := c }.withAnswer 0x00 0) := by
  have hown : ownRule s (.wrcfg idx v) = .next ({ s with cfg := c }.respond 0) := by
    rw [ownRule, writeConfig, hc]
  exact (exec_eq_ownRule (i := .wrcfg idx v) (decide_eq_true hidx) (accepts_wrcfg_iff.2 hst)).trans hown

/-- Settles O16: a legal index names a register. -/
theorem wrcfgWritesOneStagedRegister : Obligations.WrcfgWritesOneStagedRegister := by
  intro s idx v hidx hst
  obtain ⟨c, hc⟩ := ConfigRegs.write_isSome hidx s.cfg v
  exact ⟨c, exec_wrcfg hidx hst hc, fun _ hn => ConfigRegs.read_write hc hn⟩

/-- Every row of the register index map is readable and names the register it lists. -/
theorem State.readReg_of_mem_registerMap {s : State} {e : BitVec 8 × Reg32} (he : e ∈ s.registerMap) :
    readIndex e.1 = true ∧ s.readReg e.1 = some e.2 := by
  simp only [State.registerMap, List.mem_cons, List.not_mem_nil, or_false] at he
  obtain rfl | rfl | rfl | rfl | rfl | rfl | rfl | rfl | rfl | rfl | rfl | rfl | rfl | rfl | rfl | rfl | rfl | rfl | rfl := he
  all_goals exact ⟨rfl, rfl⟩

/-- The readable indices are the rows of the map. -/
theorem State.mem_registerMap_of_readIndex {idx : BitVec 8} (h : readIndex idx = true) (s : State) :
    ∃ v, (idx, v) ∈ s.registerMap := by
  have hrows : ∀ i : BitVec 8, readIndex i = true → i ∈ [0x00#8, 0x01, 0x02, 0x03, 0x04, 0x05, 0x06, 0x10, 0x11, 0x12, 0x13,
      0x14, 0x18, 0x19, 0x1A, 0x1B, 0x1C, 0x1D, 0x1E] := by decide
  have hmem : idx ∈ s.registerMap.map Prod.fst := hrows idx h
  obtain ⟨⟨i, v⟩, he, rfl⟩ := List.mem_map.1 hmem
  exact ⟨v, he⟩

/-- Settles O17: the map's rows are the readable indices, and the guard refuses the others. -/
theorem rdregAnswersTheRegisterMap : Obligations.RdregAnswersTheRegisterMap := by
  refine fun s idx => ⟨fun v hv => ?read, fun hnone => ?notRead, fun hidx hst v => ?write, fun hidx v => ?notWritten⟩
  case read =>
    obtain ⟨hread, hreg⟩ := State.readReg_of_mem_registerMap hv
    exact exec_rdreg_of_readReg hread hreg
  case notRead =>
    refine illegalOperandsOutrankTheEngineState (.rdreg idx) s (Bool.eq_false_iff.2 fun hread => ?_)
    obtain ⟨v, hv⟩ := s.mem_registerMap_of_readIndex hread
    exact hnone v hv
  case write =>
    obtain ⟨c, hexec, hregs⟩ := wrcfgWritesOneStagedRegister s idx v hidx hst
    exact ⟨c, hexec, (hregs _ hidx).trans (if_pos rfl)⟩
  case notWritten =>
    exact illegalOperandsOutrankTheEngineState (.wrcfg idx v) s (decide_eq_false (Nat.not_le.2 hidx))

/-! ### `INIT` (rule R243) -/

theorem exec_init {s : State} (hst : s.st ≠ .running) : exec .init s = .next (initialise s) :=
  exec_eq_ownRule rfl (accepts_init_iff.2 hst)

theorem initialise_of_legal {s : State} (h : s.cfg.Legal s.params) : initialise s = s.build.respond 0 := by
  rw [initialise, ConfigRegs.failedCheck_eq_none_iff.2 h]

/-- The entries past the ring are kept (rule R243 B5). -/
theorem buildRing_entry_past {c : ConfigRegs} (old : Vector Descriptor Config.maxDescriptors) {d : Nat}
    (hd : c.descriptors ≤ d) : (buildRing c old)[d]? = old[d]? := by
  simp [buildRing_get?, Nat.not_lt.2 hd]

/-- Settles O18: no check fails, so the build steps are taken. -/
theorem initBuildsALegalConfiguration : Obligations.InitBuildsALegalConfiguration := by
  intro s hst hp hc
  obtain ⟨hrows, hcols, hdepth⟩ := hc.bounds hp
  refine ⟨s.build.lut, s.build.bufA, s.build.bufB, s.build.desc, ?_, fun ch i => buildTable_lookup hdepth ch i,
    fun x => Memory.read_zeroBelow .., fun x => Memory.read_zeroBelow .., fun d hd => ?_,
    fun d hd => buildRing_entry_past s.desc hd⟩
  · rw [exec_init hst, initialise_of_legal hc]; rfl
  · obtain ⟨hoff, hlen, hnext, hrow, hplane, hhold, -⟩ := descriptorFor_values hrows hcols hdepth .A hd
    exact ⟨_, buildRing_entry hp hc s.desc hd, rfl, hoff, hlen, rfl, hnext, hrow, hplane, hhold⟩

/-- The checks C1 to C6 as the spec lists them: the first that fails gives its number, and 0 stands for none (rule R243). -/
theorem ConfigRegs.failedCheck_getD (c : ConfigRegs) (p : Params) :
    (c.failedCheck p).getD 0 =
      (if c.rows.toNat < 2 ∨ 64 < c.rows.toNat ∨ c.rows.toNat % 2 = 1 then 1
      else if c.columns.toNat < 1 ∨ p.maxColumns < c.columns.toNat then 2
      else if c.depth.toNat < 1 ∨ 16 < c.depth.toNat then 3
      else if c.gammaR.toNat < 1 ∨ 65535 < c.gammaR.toNat ∨ c.gammaG.toNat < 1 ∨
        65535 < c.gammaG.toNat ∨ c.gammaB.toNat < 1 ∨ 65535 < c.gammaB.toNat then 4
      else if c.baseTick.toNat < 1 then 5
      else if p.flickerBudget < c.cycleTicks then 6
      else 0) := by
  simp only [ConfigRegs.failedCheck, ConfigRegs.badRows, ConfigRegs.badColumns, ConfigRegs.badDepth, badGamma,
    ConfigRegs.overBudget, Config.maxRows, Config.maxBitDepth, Bool.or_eq_true, decide_eq_true_eq, or_assoc]
  split_ifs <;> rfl

/-- Settles O19: the answer is the number of the first failing check, and an error writes nothing (rule R270). -/
theorem initReportsTheFirstFailingCheck : Obligations.InitReportsTheFirstFailingCheck := by
  intro s n hst hn hcheck
  have hnumber : (s.cfg.failedCheck s.params).getD 0 = n := (s.cfg.failedCheck_getD s.params).trans hcheck.symm
  rw [exec_init hst, initialise]
  split
  case h_1 k hfail => rw [hfail] at hnumber; cases hnumber; rfl
  case h_2 hnone => rw [hnone] at hnumber; exact absurd hnumber.symm hn

/-! ### `LOOKUP`, `COMMIT`, `START` and `STOP` -/

/-- Settles O20: each channel operand names its channel. -/
theorem lookupAnswersTheTableEntry : Obligations.LookupAnswersTheTableEntry := by
  intro s val hst
  have hacc : ∀ ch, accepts (.lookup ch val) s.st = true := fun _ => accepts_of_ne_uninitialized rfl hst
  exact ⟨exec_eq_ownRule rfl (hacc 0), exec_eq_ownRule rfl (hacc 1), exec_eq_ownRule rfl (hacc 2)⟩

/-- Settles O26: the own rule of `COMMIT`. -/
theorem commitSetsPendingAndNothingElse : Obligations.CommitSetsPendingAndNothingElse :=
  fun _ hst => exec_eq_ownRule rfl (accepts_of_ne_uninitialized rfl hst)

/-- Settles O27: the own rule of `START`. -/
theorem startBeginsAtDescriptorZero : Obligations.StartBeginsAtDescriptorZero :=
  fun _ hst => exec_eq_ownRule rfl (accepts_start_iff.2 hst)

/-- Settles O28: the own rule of `STOP`. -/
theorem stopRequestsAndWaits : Obligations.StopRequestsAndWaits :=
  fun _ hst => exec_eq_ownRule rfl (accepts_stop_iff.2 hst)

/-! ### `CLEAR` (rules R145 and R146) -/

theorem exec_clear {s : State} (hst : s.st ≠ .uninitialized) : exec .clear s = .next (s.clearWritable.respond 0) :=
  exec_eq_ownRule rfl (accepts_of_ne_uninitialized rfl hst)

/-- The writable buffer is `B` while `A` is active (rule R22). -/
theorem State.withBuf_writable_of_A {s : State} (h : s.active = .A) (m : Memory) :
    s.withBuf s.writable m = { s with bufB := m } := by
  simp [State.withBuf, State.writable, h, BufId.other]

theorem State.withBuf_writable_of_B {s : State} (h : s.active = .B) (m : Memory) :
    s.withBuf s.writable m = { s with bufA := m } := by
  simp [State.withBuf, State.writable, h, BufId.other]

/-- Words zeroed once are not zeroed further. -/
theorem Memory.zeroBelow_zeroBelow (m : Memory) (n : Nat) : (m.zeroBelow n).zeroBelow n = m.zeroBelow n := by
  simp [Memory.zeroBelow, List.filter_filter]

@[simp] theorem State.emitRsp_writable (s : State) (a : BitVec 8) (d : Reg32) : (s.emitRsp a d).writable = s.writable := rfl

@[simp] theorem State.withBuf_writable (s : State) (k : BufId) (m : Memory) : (s.withBuf k m).writable = s.writable := by
  cases k <;> rfl

/-- A buffer replaced twice holds the second contents. -/
@[simp] theorem State.withBuf_withBuf (s : State) (k : BufId) (m n : Memory) :
    (s.withBuf k m).withBuf k n = s.withBuf k n := by
  cases k <;> rfl

/-- A response touches no buffer. -/
theorem State.emitRsp_withBuf (s : State) (a : BitVec 8) (d : Reg32) (k : BufId) (m : Memory) :
    (s.emitRsp a d).withBuf k m = (s.withBuf k m).emitRsp a d := by
  cases k <;> rfl

/-- A second `CLEAR` finds every word zero. -/
theorem State.clearWritable_clearWritable (s : State) : s.clearWritable.clearWritable = s.clearWritable := by
  simp [State.clearWritable, Memory.zeroBelow_zeroBelow]

/-- Settles O25: the writable buffer is the one that is not active. -/
theorem clearZeroesTheWritableBuffer : Obligations.ClearZeroesTheWritableBuffer := by
  intro s hst
  refine ⟨(s.buf s.active.other).zeroBelow s.act.bufWords, ?clears,
    fun a => Memory.read_zeroBelow .., fun t u ht hu => ?again⟩
  case clears =>
    rw [exec_clear hst, State.clearWritable]
    cases hactive : s.active
    case A => rw [State.withBuf_writable_of_A hactive, State.writable, hactive]; rfl
    case B => rw [State.withBuf_writable_of_B hactive, State.writable, hactive]; rfl
  case again =>
    rw [exec_clear hst] at ht
    cases ht
    have hst' : (s.clearWritable.respond 0).st ≠ .uninitialized := fun h => hst ((s.withBuf_st ..).symm.trans h)
    rw [exec_clear hst'] at hu
    cases hu
    have htwice : (s.clearWritable.respond 0).clearWritable = s.clearWritable.respond 0 := by
      calc (s.clearWritable.respond 0).clearWritable
          = s.clearWritable.clearWritable.respond 0 := State.emitRsp_withBuf ..
        _ = s.clearWritable.respond 0 := by rw [s.clearWritable_clearWritable]
    rw [htwice]
    exact ⟨rfl, rfl⟩

end Sys2Proof.Machine
end

section
/-! Pixels (spec/41_bitplane_encoder.md, rules R141 to R144): `SETPX` writes one lane of one word in each plane, so a pixel
reads back as its table entries, every other pixel keeps its own, and a second write replaces the first. -/

namespace Sys2Proof.Machine

/-! ### `SETPX` in bounds -/

/-- In bounds, with every address in the buffer space, the pixel is written (rule R143). -/
theorem exec_setpx_inBounds {s : State} {x y : BitVec 16} (r g b : BitVec 8) (hst : s.st ≠ .uninitialized)
    (hx : x.toNat < s.act.columns.toNat) (hy : y.toNat < s.act.rows.toNat) (hH : 0 < s.act.scanRows) :
    exec (.setpx x y r g b) s = .next ((s.setPixel x y (s.lut.convert r g b)).respond 0) := by
  have hbounds : s.act.inBounds x y = true := (s.act.inBounds_eq_true_iff x y).2 ⟨hx, hy⟩
  rw [exec_setpx hst, setpxOwn, if_pos hbounds, if_pos (ConfigRegs.pixelInSpace_of_lt hx hH _)]

/-- An even, nonzero number of panel rows makes at least one scan row. -/
theorem ConfigRegs.scanRows_pos_of_even {c : ConfigRegs} {y : Nat} (hy : y < c.rows.toNat) (heven : c.rows.toNat % 2 = 0) :
    0 < c.scanRows := by
  unfold ConfigRegs.scanRows; omega

/-- The word of each plane of a pixel just written: the pixel's lane replaced, in a byte with bits 7:6 zero. -/
theorem writePixel_word {c : ConfigRegs} {x y : Nat} {v : Intensity} {m : Memory} (hm : m.wf = true)
    (hx : x < c.columns.toNat) {b : Nat} (hb : b < c.planes) :
    (writePixel c x y v m).readWord (c.wordAddr (c.scanRowOf y) b x) =
      replaceLane (m.readWord (c.wordAddr (c.scanRowOf y) b x)) (c.laneShift y) (v.planeBits b) ∧
    (writePixel c x y v m).read (c.wordAddr (c.scanRowOf y) b x) =
      ((writePixel c x y v m).readWord (c.wordAddr (c.scanRowOf y) b x)).setWidth 8 := by
  obtain ⟨hwritten, -⟩ := writePixel_read (y := y) (v := v) hm hx
  have hword : (writePixel c x y v m).readWord (c.wordAddr (c.scanRowOf y) b x) =
      replaceLane (m.readWord (c.wordAddr (c.scanRowOf y) b x)) (c.laneShift y) (v.planeBits b) := by
    rw [Memory.readWord, hwritten b hb, setWidth_six_eight]
  exact ⟨hword, by rw [hword, hwritten b hb]⟩

/-- Settles O21: the buffer written is the one that is not active, and its words change lane by lane. -/
theorem setpxWritesOnlyItsPixel : Obligations.SetpxWritesOnlyItsPixel := by
  intro s x y red green blue hst hx hy heven hwf
  have hexec := exec_setpx_inBounds red green blue hst hx hy (ConfigRegs.scanRows_pos_of_even hy heven)
  set v := s.lut.convert red green blue with hv
  refine ⟨writePixel s.act x.toNat y.toNat v (s.buf s.active.other), ?written, fun b hb => ?lane, ?others⟩
  case written =>
    rw [hexec, State.setPixel]
    cases hactive : s.active
    case A => rw [State.withBuf_writable_of_A hactive, State.writable, hactive]; rfl
    case B => rw [State.withBuf_writable_of_B hactive, State.writable, hactive]; rfl
  case lane =>
    obtain ⟨hword, hbyte⟩ := writePixel_word (y := y.toNat) (v := v) hwf hx hb
    refine ⟨hbyte, fun j hj => ?_⟩
    rw [hword, replaceLane_bit _ v b _ j (ConfigRegs.laneShift_cases hy heven) hj]
    rfl
  case others => exact (writePixel_read hwf hx).2

/-! ### What a pixel reads back as (rule R144) -/

/-- The intensity of a channel (rule R16). -/
def Intensity.channel (v : Intensity) : Channel → BitVec 16
  | .red => v.red
  | .green => v.green
  | .blue => v.blue

theorem channelNumber_lt (ch : Channel) : ch.number < 3 := by
  cases ch <;> decide

/-- The bit of a channel in its own lane, once the lane is replaced. -/
theorem replaceLane_own_bit (w : PixelWord) (v : Intensity) (b : Nat) (ch : Channel) {s : Nat} (hs : s = 0 ∨ s = 3) :
    (replaceLane w s (v.planeBits b)).getLsbD (s + ch.number) = (v.channel ch).getLsbD b := by
  have hch := channelNumber_lt ch
  rw [replaceLane_bit w v b s _ hs (by omega)]
  cases ch <;> simp [Channel.number, Intensity.channel]

/-- The other lane's bits stay. -/
theorem replaceLane_other_bit (w : PixelWord) (v : Intensity) (b : Nat) (ch : Channel) {s s' : Nat} (hs : s = 0 ∨ s = 3)
    (hs' : s' = 0 ∨ s' = 3) (hne : s' ≠ s) :
    (replaceLane w s (v.planeBits b)).getLsbD (s' + ch.number) = w.getLsbD (s' + ch.number) := by
  have hch := channelNumber_lt ch
  rw [replaceLane_bit w v b s _ hs (by omega), if_neg (by omega), if_neg (by omega), if_neg (by omega)]

/-- The lowest `n` bits of a number, summed with their weights. -/
theorem sum_bits (v n : Nat) : ((List.range n).map fun b => (v.testBit b).toNat * 2 ^ b).sum = v % 2 ^ n := by
  induction n with
  | zero => simp [Nat.mod_one]
  | succ n ih =>
    rw [List.range_succ, List.map_append, List.sum_append, ih, List.map_singleton, List.sum_singleton, Nat.toNat_testBit,
      Nat.mod_pow_succ, Nat.mul_comm (2 ^ n)]

/-- The planes of a pixel just written reassemble to its intensities (rule R144 (a)). -/
theorem pixelIntensity_writePixel_same {c : ConfigRegs} {x y : Nat} {v : Intensity} {m : Memory} (hm : m.wf = true)
    (hx : x < c.columns.toNat) (hy : y < c.rows.toNat) (heven : c.rows.toNat % 2 = 0) (ch : Channel)
    (hv : (v.channel ch).toNat < 2 ^ c.planes) :
    c.pixelIntensity (writePixel c x y v m) x y ch = (v.channel ch).toNat := by
  have hplane : ∀ b ∈ List.range c.planes,
      (c.pixelBit y ch ((writePixel c x y v m).readWord (c.wordAddr (c.scanRowOf y) b x))).toNat * 2 ^ b =
        ((v.channel ch).toNat.testBit b).toNat * 2 ^ b := by
    intro b hb
    obtain ⟨hword, -⟩ := writePixel_word (y := y) (v := v) hm hx (List.mem_range.1 hb)
    rw [ConfigRegs.pixelBit, hword, replaceLane_own_bit _ v b ch (ConfigRegs.laneShift_cases hy heven)]
    rfl
  rw [ConfigRegs.pixelIntensity, List.map_congr_left hplane, sum_bits, Nat.mod_eq_of_lt hv]

/-- Another pixel shares a word with the one written only in the other lane, so its bits stay (rule R144 (b)). -/
theorem pixelBit_writePixel_other {c : ConfigRegs} {x y x' y' : Nat} (v : Intensity) {m : Memory} (hm : m.wf = true)
    (hx : x < c.columns.toNat) (hy : y < c.rows.toNat) (hx' : x' < c.columns.toNat) (hy' : y' < c.rows.toNat)
    (heven : c.rows.toNat % 2 = 0) (hne : x' ≠ x ∨ y' ≠ y) (ch : Channel) {b : Nat} (hb : b < c.planes) :
    c.pixelBit y' ch ((writePixel c x y v m).readWord (c.wordAddr (c.scanRowOf y') b x')) =
      c.pixelBit y' ch (m.readWord (c.wordAddr (c.scanRowOf y') b x')) := by
  by_cases hshared : ∃ k, k < c.planes ∧ c.wordAddr (c.scanRowOf y') b x' = c.wordAddr (c.scanRowOf y) k x
  · obtain ⟨k, hk, haddr⟩ := hshared
    obtain ⟨hrow, rfl, rfl⟩ := ConfigRegs.wordAddr_inj hx' hx hb hk haddr
    have hlane : c.laneShift y' ≠ c.laneShift y := fun hlane =>
      hne.elim (absurd rfl) fun hy => hy (ConfigRegs.row_eq_of_lane hrow hlane)
    obtain ⟨hword, -⟩ := writePixel_word (y := y) (v := v) hm hx' hb
    rw [ConfigRegs.pixelBit, ConfigRegs.pixelBit, hrow, hword]
    exact replaceLane_other_bit _ v b ch (ConfigRegs.laneShift_cases hy heven) (ConfigRegs.laneShift_cases hy' heven) hlane
  · obtain ⟨-, hothers⟩ := writePixel_read (y := y) (v := v) hm hx
    rw [Memory.readWord, hothers _ fun k hk haddr => hshared ⟨k, hk, haddr⟩, ← Memory.readWord]

/-- A legal engine has an even number of panel rows. -/
theorem ConfigRegs.Legal.rows_even {p : Params} {c : ConfigRegs} (h : c.Legal p) : c.rows.toNat % 2 = 0 := by
  obtain ⟨⟨-, -, heven⟩, -⟩ := h
  exact heven

/-- What an in-bounds `SETPX` leaves in the writable buffer of an engine that meets the invariant. -/
theorem State.Inv.exec_setpx {s t : State} {x y : BitVec 16} {r g b : BitVec 8} (h : s.Inv) (hst : s.st ≠ .uninitialized)
    (hx : x.toNat < s.act.columns.toNat) (hy : y.toNat < s.act.rows.toNat) (hexec : exec (.setpx x y r g b) s = .next t) :
    t = (s.setPixel x y (s.lut.convert r g b)).emitRsp statusOk 0 ∧
    t.buf s.writable = writePixel s.act x.toNat y.toNat (s.lut.convert r g b) (s.buf s.writable) := by
  rw [exec_setpx_inBounds r g b hst hx hy (h.built hst).legal.scanRows_pos] at hexec
  cases hexec
  exact ⟨rfl, by rw [State.respond_eq, State.emitRsp_buf]; exact s.buf_withBuf ..⟩

/-- An entry of the table of a built engine fits the planes of the buffer. -/
theorem State.BuiltInv.lookup_lt {s : State} (h : s.BuiltInv) (ch : Channel) (i : BitVec 8) :
    (s.lut.lookup ch i).toNat < 2 ^ s.act.planes := by
  rw [h.table, buildTable_lookup h.legal.depth_le]
  exact gammaEntry_lt ..

/-- Settles O23: the entries fit the planes, and no other pixel shares a lane of a word with the one written. -/
theorem setpxReadsBackAndKeepsOtherPixels : Obligations.SetpxReadsBackAndKeepsOtherPixels := by
  intro s t x y red green blue h hst hx hy hexec
  have hb := h.built hst
  have heven := hb.legal.rows_even
  obtain ⟨hwf, -⟩ := h.memory.buf s.writable
  obtain ⟨-, hbuf⟩ := h.exec_setpx hst hx hy hexec
  rw [show s.active.other = s.writable from rfl, hbuf]
  refine ⟨?red, ?green, ?blue, fun x' y' ch hx' hy' hne => ?other⟩
  case red => exact pixelIntensity_writePixel_same hwf hx hy heven .red (hb.lookup_lt .red red)
  case green => exact pixelIntensity_writePixel_same hwf hx hy heven .green (hb.lookup_lt .green green)
  case blue => exact pixelIntensity_writePixel_same hwf hx hy heven .blue (hb.lookup_lt .blue blue)
  case other =>
    have hbits : ∀ b ∈ List.range s.act.planes,
        (s.act.pixelBit y' ch ((writePixel s.act x.toNat y.toNat (s.lut.convert red green blue) (s.buf s.writable)).readWord
          (s.act.wordAddr (s.act.scanRowOf y') b x'))).toNat * 2 ^ b =
        (s.act.pixelBit y' ch ((s.buf s.writable).readWord (s.act.wordAddr (s.act.scanRowOf y') b x'))).toNat * 2 ^ b :=
      fun b hb => by rw [pixelBit_writePixel_other _ hwf hx hy hx' hy' heven hne ch (List.mem_range.1 hb)]
    rw [ConfigRegs.pixelIntensity, ConfigRegs.pixelIntensity, List.map_congr_left hbits]

/-! ### A second write of the same pixel (rule R144 (c)) -/

/-- A lane replaced twice holds the second bits. -/
theorem replaceLane_replaceLane (w : PixelWord) (v u : Intensity) (b : Nat) {s : Nat} (hs : s = 0 ∨ s = 3) :
    replaceLane (replaceLane w s (v.planeBits b)) s (u.planeBits b) = replaceLane w s (u.planeBits b) := by
  apply BitVec.eq_of_getLsbD_eq
  intro j hj
  rw [replaceLane_bit _ u b s j hs hj, replaceLane_bit w u b s j hs hj, replaceLane_bit w v b s j hs hj]
  split_ifs <;> rfl

/-- The second write of a pixel leaves no trace of the first. -/
theorem writePixel_writePixel {c : ConfigRegs} {x y : Nat} (v u : Intensity) {m : Memory} (hm : m.wf = true)
    (hx : x < c.columns.toNat) (hy : y < c.rows.toNat) (heven : c.rows.toNat % 2 = 0) :
    writePixel c x y u (writePixel c x y v m) = writePixel c x y u m := by
  have hfirst : (writePixel c x y v m).wf = true := writePixel_wf c x y v hm
  refine Memory.ext_of_wf (writePixel_wf c x y u hfirst) (writePixel_wf c x y u hm) fun a => ?_
  by_cases hplane : ∃ b, b < c.planes ∧ a = c.wordAddr (c.scanRowOf y) b x
  · obtain ⟨b, hb, rfl⟩ := hplane
    obtain ⟨hword, -⟩ := writePixel_word (y := y) (v := v) hm hx hb
    rw [(writePixel_read hfirst hx).1 b hb, (writePixel_read hm hx).1 b hb, hword,
      replaceLane_replaceLane _ v u b (ConfigRegs.laneShift_cases hy heven)]
  · have hother : ∀ b, b < c.planes → a ≠ c.wordAddr (c.scanRowOf y) b x := fun b hb ha => hplane ⟨b, hb, ha⟩
    rw [(writePixel_read hfirst hx).2 a hother, (writePixel_read hm hx).2 a hother, (writePixel_read hm hx).2 a hother]

/-- Writing one pixel twice leaves the buffers as the second write alone does. -/
theorem State.setPixel_setPixel {s : State} {x y : BitVec 16} (v u : Intensity) (hm : (s.buf s.writable).wf = true)
    (hx : x.toNat < s.act.columns.toNat) (hy : y.toNat < s.act.rows.toNat) (heven : s.act.rows.toNat % 2 = 0) :
    (s.setPixel x y v).setPixel x y u = s.setPixel x y u := by
  simp [State.setPixel, writePixel_writePixel v u hm hx hy heven]

@[simp] theorem State.setPixel_st (s : State) (x y : BitVec 16) (v : Intensity) : (s.setPixel x y v).st = s.st :=
  s.withBuf_st ..
@[simp] theorem State.setPixel_act (s : State) (x y : BitVec 16) (v : Intensity) : (s.setPixel x y v).act = s.act :=
  s.withBuf_act ..
@[simp] theorem State.setPixel_lut (s : State) (x y : BitVec 16) (v : Intensity) : (s.setPixel x y v).lut = s.lut :=
  s.withBuf_lut ..

/-- A response between two writes touches no buffer. -/
theorem State.emitRsp_setPixel (s : State) (a : BitVec 8) (d : Reg32) (x y : BitVec 16) (v : Intensity) :
    (s.emitRsp a d).setPixel x y v = (s.setPixel x y v).emitRsp a d :=
  State.emitRsp_withBuf ..

/-- Settles O24: the response of the first write touches no buffer, and the second write leaves no trace of the first. -/
theorem secondSetpxReplacesTheFirst : Obligations.SecondSetpxReplacesTheFirst := by
  intro s t u v x y r1 g1 b1 r2 g2 b2 h hst hx hy ht hu hv
  obtain ⟨hwf, -⟩ := h.memory.buf s.writable
  have hlegal := (h.built hst).legal
  rw [exec_setpx_inBounds _ _ _ hst hx hy hlegal.scanRows_pos] at ht hv
  cases ht
  cases hv
  rw [State.respond_eq, exec_setpx_inBounds _ _ _ (by simpa using hst) (by simpa using hx) (by simpa using hy)
    (by simpa using hlegal.scanRows_pos), State.emitRsp_setPixel, State.setPixel_setPixel _ _ hwf hx hy hlegal.rows_even,
    State.emitRsp_lut, State.setPixel_lut] at hu
  cases hu
  exact ⟨rfl, rfl⟩

/-! ### Addresses outside the buffer space (rule R60) -/

theorem exec_setpx_fault {s : State} {x y : BitVec 16} (r g b : BitVec 8) {k : Nat} (hst : s.st ≠ .uninitialized)
    (hx : x.toNat < s.act.columns.toNat) (hy : y.toNat < s.act.rows.toNat) (hk : k < s.act.planes)
    (hout : s.act.bufWords ≤ s.act.wordAddr (s.act.scanRowOf y.toNat) k x.toNat) :
    exec (.setpx x y r g b) s = .fault .noSuchBufferWord := by
  have hbounds : s.act.inBounds x y = true := (s.act.inBounds_eq_true_iff x y).2 ⟨hx, hy⟩
  have hspace : ¬ s.act.pixelInSpace x.toNat y.toNat = true :=
    fun hspace => Nat.not_lt.2 hout (ConfigRegs.pixelInSpace_iff.1 hspace k hk)
  rw [exec_setpx hst, setpxOwn, if_pos hbounds, if_neg hspace]

end Sys2Proof.Machine
end

section
/-! One step of the background agent, the timeout and the reset (spec/43, spec/44, spec/60 and spec/70): what each does when its
turn is prescribed. -/

namespace Sys2Proof.Machine

/-! ### A turn of the background agent -/

theorem step_background {s : State} {rest : List Turn} (h : s.turns = .background :: rest) :
    step s = background (s.inTurn rest) := step_eq_takeTurn h

/-- Settles O60: no step is enabled. -/
theorem backgroundTurnOutsideARunDoesNothing : Obligations.BackgroundTurnOutsideARunDoesNothing := by
  intro s rest hturns hidle
  rw [step_background hturns]
  obtain hph | ⟨hph, hst⟩ := hidle
  · exact background_of_off hph
  · exact background_of_fetch_idle hph hst

/-! ### `BG_FETCH` (rule R187) -/

/-- An adoption leaves a descriptor at index 0, whatever was there. -/
theorem State.adopt_desc_zero (s : State) : ∃ r, s.adopt.desc[0]? = some r := by
  rw [State.adopt_desc, repoint_get?, Vector.getElem?_eq_getElem (by decide)]
  exact ⟨_, rfl⟩

/-- Settles O30: the stop first, then the boundary work, then the load. -/
theorem fetchStopsAdoptsOrLoads : Obligations.FetchStopsAdoptsOrLoads := by
  intro s rest hturns hst hph
  have hfetch : step s = bgFetch (s.inTurn rest) := (step_background hturns).trans (background_of_fetch hph hst)
  refine ⟨fun hstop => ?stop, fun hstop hnone r hr => ?load, fun hstop hcur hpending => ?adopt⟩
  case stop => exact hfetch.trans (bgFetch_of_stopReq hstop)
  case load =>
    rw [hfetch, bgFetch_of_not_stopReq (s := s.inTurn rest) hstop,
      State.boundary_of_not (s := s.inTurn rest) hnone]
    exact State.loadDescriptor_of_entry hr
  case adopt =>
    obtain ⟨r, hr⟩ := (s.inTurn rest).adopt_desc_zero
    refine ⟨(s.inTurn rest).adopt.desc, r, hr, ?step, fun d e he => ?entries⟩
    case step =>
      have hentry : (s.inTurn rest).adopt.desc[(s.inTurn rest).adopt.cur.toNat]? = some r := by
        rw [State.adopt_cur, show (s.inTurn rest).cur = 0 from hcur]; exact hr
      rw [hfetch, bgFetch_of_not_stopReq (s := s.inTurn rest) hstop,
        State.boundary_of_pending (s := s.inTurn rest) hcur hpending]
      exact State.loadDescriptor_of_entry hentry
    case entries =>
      have hdesc : (s.inTurn rest).desc[d]? = some e := he
      rw [State.adopt_desc, repoint_get?, hdesc]
      rfl

/-! ### `BG_SHIFT`, `BG_LATCH`, `BG_HOLD` and `BG_DONE` (rules R189 and R214 to R216) -/

/-- Settles O31: the address is in the buffer space, and the mirror changes at one position. -/
theorem shiftTransfersOneWord : Obligations.ShiftTransfersOneWord := by
  intro s rest hturns hph hwf haddr
  have hstep : step s = .next (s.inTurn rest).shiftOne := by
    rw [step_background hturns, background_of_shift (s := s.inTurn rest) hph, bgShift_of_inSpace (s := s.inTurn rest) haddr]
  exact ⟨(s.inTurn rest).shiftOne.sr, hstep, fun x => Memory.readWord_writeWord hwf s.shiftK.toNat x _⟩

/-- Settles O32: the step the phase enables. -/
theorem latchEmitsThePulse : Obligations.LatchEmitsThePulse :=
  fun _ _ hturns hph => (step_background hturns).trans (background_of_latch hph)

/-- Settles O33: the step the phase enables. -/
theorem holdEnablesForTheHold : Obligations.HoldEnablesForTheHold :=
  fun _ _ hturns hph => (step_background hturns).trans (background_of_hold hph)

/-- Settles O34: the step the phase enables. -/
theorem doneAdvancesTheRing : Obligations.DoneAdvancesTheRing :=
  fun _ _ hturns hph => (step_background hturns).trans (background_of_done hph)

/-- Settles O29: each test of an index comes before its access. -/
theorem addressesOutsideTheirSpaceFault : Obligations.AddressesOutsideTheirSpaceFault := by
  refine ⟨fun s x y r g b k hst hx hy hk hout => exec_setpx_fault r g b hst hx hy hk hout,
    fun s rest hturns hph hout => ?shift, fun s rest hturns hst hph hstop hcur => ?fetch⟩
  case shift =>
    rw [step_background hturns, background_of_shift (s := s.inTurn rest) hph]
    exact bgShift_fault hout
  case fetch =>
    have hnonzero : ¬ ((s.inTurn rest).cur = 0 ∧ (s.inTurn rest).pending = true) := by
      rintro ⟨hzero, -⟩
      have : s.cur.toNat = 0 := congrArg BitVec.toNat hzero
      omega
    have hentry : (s.inTurn rest).desc[(s.inTurn rest).cur.toNat]? = none := Vector.getElem?_eq_none hcur
    rw [step_background hturns, background_of_fetch (s := s.inTurn rest) hph hst,
      bgFetch_of_not_stopReq (s := s.inTurn rest) hstop, State.boundary_of_not hnonzero]
    exact State.loadDescriptor_of_no_entry hentry

/-! ### `TIMEOUT` (rules R275 to R278) and `rst` (rule R310) -/

/-- Settles O15: what `rst` leaves is said once, in `State.applyReset_cases`. -/
theorem resetTurnResetsTheBlock : Obligations.ResetTurnResetsTheBlock := by
  intro s rest hturns
  obtain ⟨wave, n, hreset, hfree, hcut⟩ := (s.inTurn rest).applyReset_cases
  exact ⟨wave, n, (step_eq_takeTurn hturns).trans (congrArg Host.Outcome.next hreset), hfree, hcut⟩

/-- Abandoning a pulse adds at most a part of the hold to the waveform, and changes nothing else but the free values. -/
theorem State.abandonPulse_eq (s : State) :
    ∃ wave n, s.abandonPulse = { s with wave := wave, freeCount := n } ∧
      (s.ph ≠ .hold → wave = s.wave) ∧
      (s.ph = .hold → ∃ p : BitVec 48, wave = s.wave ++ [.enable p] ∧ p.toNat ≤ s.dreg.hold.toNat) := by
  by_cases hph : s.ph = .hold
  · refine ⟨s.wave ++ [.enable s.cutPeriods], s.freeCount + 1, ?_, absurd hph, fun _ => ⟨_, rfl, s.cutPeriods_le⟩⟩
    simp [State.abandonPulse, hph]
  · refine ⟨s.wave, s.freeCount, ?_, fun _ => rfl, fun h => absurd h hph⟩
    obtain heq | ⟨h, -⟩ := s.abandonPulse_cases
    · exact heq
    · exact absurd h hph

theorem State.faultWord_eq (s : State) : s.faultWord = BitVec.ofNat 32 (s.ph.code.toNat * 2 ^ 16 + s.cur.toNat) := by
  rw [← State.faultWord_toNat, BitVec.ofNat_toNat, BitVec.setWidth_eq]

/-- A timeout is enabled in the four phases of a pulse in flight (rules R25 and R275). -/
theorem State.timeoutEnabled_of_phase {s : State} (hst : s.st = .running)
    (hph : s.ph = .shift ∨ s.ph = .latch ∨ s.ph = .hold ∨ s.ph = .done) : s.timeoutEnabled = true := by
  refine s.timeoutEnabled_iff.2 ⟨hst, ?_⟩
  obtain hph | hph | hph | hph := hph <;> rw [hph] <;> rfl

theorem step_timeout {s : State} {rest : List Turn} (h : s.turns = .timeout :: rest) :
    step s = .next (s.inTurn rest).timeout := step_eq_takeTurn h

theorem State.timeout_of_first {s : State} (henabled : s.timeoutEnabled = true) (hretry : s.retryUsed = false) :
    s.timeout = s.abandonPulse.recordFault.restart := by
  simp [State.timeout, State.takeFault, henabled, hretry]

theorem State.timeout_of_second {s : State} (henabled : s.timeoutEnabled = true) (hretry : s.retryUsed = true) :
    s.timeout = s.abandonPulse.recordFault.escalate := by
  simp [State.timeout, State.takeFault, henabled, hretry]

/-- The bookkeeping of a timeout, field by field (rule R276). -/
theorem State.recordFault_eq (s : State) :
    s.recordFault = { s with
      faultCount := BitVec.ofNat 32 (min (s.faultCount.toNat + 1) (2 ^ 32 - 1))
      faultInfo := BitVec.ofNat 32 (s.ph.code.toNat * 2 ^ 16 + s.cur.toNat)
      pins := { data := 0, clkOut := false, lat := false, oeN := true, addr := s.pins.addr }
      observed := s.observed ++ [.abort s.cur] } := by
  rw [← State.faultWord_eq]; rfl

/-- Settles O35: the pulse is abandoned, the fault recorded and the chain restarted. -/
theorem firstTimeoutRestartsTheRing : Obligations.FirstTimeoutRestartsTheRing := by
  intro s rest hturns hst hph hretry
  obtain ⟨wave, n, hpulse, hfree, hcut⟩ := (s.inTurn rest).abandonPulse_eq
  have henabled : (s.inTurn rest).timeoutEnabled = true := State.timeoutEnabled_of_phase hst hph
  refine ⟨wave, n, ?_, hfree, hcut⟩
  rw [step_timeout hturns, State.timeout_of_first henabled hretry, hpulse, State.recordFault_eq]
  rfl

/-- Settles O36: the pulse is abandoned, the fault recorded and the engine stopped, with an answer to a `STOP` that waits. -/
theorem secondTimeoutEscalates : Obligations.SecondTimeoutEscalates := by
  intro s rest hturns hst hph hretry
  obtain ⟨wave, n, hpulse, hfree, hcut⟩ := (s.inTurn rest).abandonPulse_eq
  have henabled : (s.inTurn rest).timeoutEnabled = true := State.timeoutEnabled_of_phase hst hph
  refine ⟨wave, n, _, rfl, ?_, hfree, hcut⟩
  rw [step_timeout hturns, State.timeout_of_second henabled hretry, hpulse, State.recordFault_eq, State.escalate]
  cases hstop : s.stopReq
  case true => simp only [State.inTurn, hstop]; rfl
  case false => simp only [State.inTurn, hstop]; rfl

/-- Settles O37: no timeout is enabled. -/
theorem timeoutOutsideAPulseDoesNothing : Obligations.TimeoutOutsideAPulseDoesNothing := by
  intro s rest hturns hidle
  have hdisabled : ¬ (s.inTurn rest).timeoutEnabled = true := by
    rw [State.timeoutEnabled_iff]
    rintro ⟨hst, hph⟩
    obtain hst' | hoff | hfetch := hidle
    · exact hst' hst
    · rw [show (s.inTurn rest).ph = .off from hoff] at hph; cases hph
    · rw [show (s.inTurn rest).ph = .fetch from hfetch] at hph; cases hph
  rw [step_timeout hturns, State.timeout, if_neg hdisabled]

end Sys2Proof.Machine
end

section
/-! Runs (spec/43, spec/44 and spec/45): the background agent carries a pulse from its fetch to the next, so an uncut cycle emits
the ring's records in order and a waiting `STOP` is answered within one pulse; and the eight commands of `NEW` build an engine. -/

namespace Sys2Proof.Machine

/-! ### The record of a latch -/

/-- The record of the pulse in flight, or of the one a fetch is about to load: the active buffer's region of `CUR`. -/
def State.record (s : State) : Record := pulseFor s.act s.active (s.buf s.active) s.cur.toNat

/-- What a latch emits is the record of `CUR`: `DREG` holds its descriptor and `SR` mirrors its region (rules R38 and R215). -/
theorem State.Inv.latch_record {s : State} (h : s.Inv) (hph : s.ph = .latch) :
    .pulse s.dreg.row s.dreg.plane s.dreg.srcBuf s.shifted s.dreg.hold = s.record := by
  have hflight : s.ph.inFlight = true := by rw [hph]; rfl
  obtain ⟨-, -, -, -, hlen, -⟩ := h.inFlight hflight
  have hwords : s.shifted =
      (List.range s.act.columns.toNat).map fun x => (s.buf s.active).readWord (s.cur.toNat * s.act.columns.toNat + x) := by
    rw [State.shifted, hlen]
    exact List.map_congr_left fun x hx => h.pulse.mirrored hph x (List.mem_range.1 hx)
  rw [hwords, h.pulse.dreg hflight]
  rfl

/-- Settles O55: a latch emits the record of the pulse in flight. -/
theorem pulseCarriesTheActiveBuffer : Obligations.PulseCarriesTheActiveBuffer := by
  intro s rest h hturns hph
  refine ⟨_, latchEmitsThePulse s rest hturns hph, ?_⟩
  exact congrArg (fun r => s.observed ++ [r]) (h.latch_record hph)

/-! ### Runs of the background agent -/

/-- A run that goes on is continued from where it came to. -/
theorem run_add {m n : Nat} {s t : State} (h : Sys2Proof.core.run m s = .next t) :
    Sys2Proof.core.run (m + n) s = Sys2Proof.core.run n t := by
  induction m generalizing s with
  | zero => cases h; rw [Nat.zero_add]
  | succ m ih =>
    cases hstep : step s with
    | next s' =>
      rw [run_succ hstep] at h
      rw [Nat.succ_add, run_succ hstep, ih h]
    | fault r =>
      have hstep' : Sys2Proof.core.step s = .fault r := hstep
      simp [Host.Core.run, hstep'] at h
    | refused r =>
      have hstep' : Sys2Proof.core.step s = .refused r := hstep
      simp [Host.Core.run, hstep'] at h

/-- `n` turns take `s`, which meets the invariant, to `t`, which meets it too; the turns `rest` are left, the records `rs` are
emitted, and what a pulse does not write is as it was. -/
structure Progress (n : Nat) (rest : List Turn) (rs : List Record) (s t : State) : Prop where
  run : Sys2Proof.core.run n s = .next t
  inv : t.Inv
  turns : t.turns = rest
  observed : t.observed = s.observed ++ rs
  st : t.st = s.st
  stopReq : t.stopReq = s.stopReq
  active : t.active = s.active
  pending : t.pending = s.pending
  act : t.act = s.act
  bufA : t.bufA = s.bufA
  bufB : t.bufB = s.bufB

theorem Progress.refl {s : State} (h : s.Inv) : Progress 0 s.turns [] s s :=
  ⟨rfl, h, rfl, (List.append_nil _).symm, rfl, rfl, rfl, rfl, rfl, rfl, rfl⟩

theorem Progress.trans {m n : Nat} {ts rest : List Turn} {rs rs' : List Record} {s t u : State}
    (h : Progress m ts rs s t) (h' : Progress n rest rs' t u) : Progress (m + n) rest (rs ++ rs') s u where
  run := (run_add h.run).trans h'.run
  inv := h'.inv
  turns := h'.turns
  observed := by rw [h'.observed, h.observed, List.append_assoc]
  st := h'.st.trans h.st
  stopReq := h'.stopReq.trans h.stopReq
  active := h'.active.trans h.active
  pending := h'.pending.trans h.pending
  act := h'.act.trans h.act
  bufA := h'.bufA.trans h.bufA
  bufB := h'.bufB.trans h.bufB

/-- One step is a run of one turn. -/
theorem run_one {s t : State} (h : step s = .next t) : Sys2Proof.core.run 1 s = .next t := run_succ h

/-- A step keeps the invariant, so it is progress if it leaves what a pulse does not write. -/
theorem Progress.of_step {rs : List Record} {s t : State} (h : s.Inv) (hstep : step s = .next t)
    (hobs : t.observed = s.observed ++ rs)
    (hframe : t.st = s.st ∧ t.stopReq = s.stopReq ∧ t.active = s.active ∧ t.pending = s.pending ∧ t.act = s.act ∧
      t.bufA = s.bufA ∧ t.bufB = s.bufB) : Progress 1 t.turns rs s t := by
  obtain ⟨hst, hstop, hactive, hpending, hact, hA, hB⟩ := hframe
  exact ⟨run_one hstep, stepKeepsTheInvariant s t h hstep, rfl, hobs, hst, hstop, hactive, hpending, hact, hA, hB⟩

theorem Progress.buf {n : Nat} {rest : List Turn} {rs : List Record} {s t : State} (h : Progress n rest rs s t) (k : BufId) :
    t.buf k = s.buf k := State.buf_congr h.bufA h.bufB k

/-- The picture of one descriptor is the same before and after. -/
theorem Progress.record {n : Nat} {rest : List Turn} {rs : List Record} {s t : State} (h : Progress n rest rs s t)
    (hcur : t.cur = s.cur) : t.record = s.record := by
  rw [State.record, State.record, h.act, h.active, h.buf, hcur]

/-! ### One pulse, phase by phase -/

/-- The fetch of a descriptor, where no stop waits and no swap is due. -/
theorem progress_fetch {s : State} {rest : List Turn} (h : s.Inv) (hturns : s.turns = .background :: rest)
    (hph : s.ph = .fetch) (hstop : s.stopReq = false) (hswap : s.pending = false) :
    ∃ t, Progress 1 rest [] s t ∧ t.ph = .shift ∧ t.shiftK = 0 ∧ t.cur = s.cur := by
  have hrun := h.running_of_ph hph (by decide)
  obtain ⟨-, hload, -⟩ := fetchStopsAdoptsOrLoads s rest hturns hrun hph
  have hstep := hload hstop (by simp [hswap]) _ (h.desc_cur hrun)
  exact ⟨_, Progress.of_step h hstep (List.append_nil _).symm ⟨rfl, rfl, rfl, rfl, rfl, rfl, rfl⟩,
    rfl, rfl, rfl⟩

/-- One word shifted (rule R214). -/
theorem progress_shiftOne {s : State} {rest : List Turn} (h : s.Inv) (hturns : s.turns = .background :: rest)
    (hph : s.ph = .shift) :
    ∃ t, Progress 1 rest [] s t ∧ t.cur = s.cur ∧ t.shiftK.toNat = s.shiftK.toNat + 1 ∧
      t.ph = if s.shiftK.toNat + 1 = s.act.columns.toNat then .latch else .shift := by
  obtain ⟨haddr, -⟩ := h.shiftAddr_eq hph
  obtain ⟨hsucc, hlast⟩ := h.shiftK_succ hph
  have hb := h.built_of_running (h.running_of_ph hph (by decide))
  have hspace : (s.inTurn rest).shiftAddr < s.act.bufWords :=
    lt_of_eq_of_lt haddr (ConfigRegs.region_lt hb.cur (h.pulse.room hph))
  have hstep : step s = .next (s.inTurn rest).shiftOne := by
    rw [step_background hturns, background_of_shift (s := s.inTurn rest) hph, bgShift_of_inSpace (s := s.inTurn rest) hspace]
  refine ⟨_, Progress.of_step h hstep (List.append_nil _).symm ⟨rfl, rfl, rfl, rfl, rfl, rfl, rfl⟩, rfl, hsucc, ?_⟩
  simp only [← hlast]
  rfl

/-- The words left to shift, one a turn. -/
theorem progress_shift {k : Nat} {s : State} {rest : List Turn} (h : s.Inv) (hph : s.ph = .shift)
    (hk : s.shiftK.toNat + k = s.act.columns.toNat) (hturns : s.turns = List.replicate k .background ++ rest) :
    ∃ t, Progress k rest [] s t ∧ t.ph = .latch ∧ t.cur = s.cur := by
  induction k generalizing s with
  | zero => have := h.pulse.room hph; omega
  | succ k ih =>
    obtain ⟨t, hone, hcur, hshift, hnext⟩ := progress_shiftOne h hturns hph
    cases k with
    | zero => exact ⟨t, hone, by rw [hnext, if_pos hk], hcur⟩
    | succ k =>
      have hmore : t.ph = .shift := by rw [hnext, if_neg (by omega)]
      obtain ⟨u, hrest, hlatch, hcur'⟩ := ih hone.inv hmore (by rw [hone.act, hshift]; omega) hone.turns
      refine ⟨u, ?_, hlatch, hcur'.trans hcur⟩
      rw [Nat.add_comm]
      exact hone.trans hrest

/-- The latch emits the pulse's record. -/
theorem progress_latch {s : State} {rest : List Turn} (h : s.Inv) (hturns : s.turns = .background :: rest)
    (hph : s.ph = .latch) : ∃ t, Progress 1 rest [s.record] s t ∧ t.ph = .hold ∧ t.cur = s.cur := by
  have hstep := latchEmitsThePulse s rest hturns hph
  have hobserved := congrArg (fun r => s.observed ++ [r]) (h.latch_record hph)
  exact ⟨_, Progress.of_step h hstep hobserved ⟨rfl, rfl, rfl, rfl, rfl, rfl, rfl⟩, rfl, rfl⟩

theorem progress_hold {s : State} {rest : List Turn} (h : s.Inv) (hturns : s.turns = .background :: rest)
    (hph : s.ph = .hold) : ∃ t, Progress 1 rest [] s t ∧ t.ph = .done ∧ t.cur = s.cur := by
  have hstep := holdEnablesForTheHold s rest hturns hph
  exact ⟨_, Progress.of_step h hstep (List.append_nil _).symm ⟨rfl, rfl, rfl, rfl, rfl, rfl, rfl⟩,
    rfl, rfl⟩

/-- `t` is at the fetch of the descriptor after the one of `s`, and the restart is given back where a cycle is complete. -/
def State.AtNext (s t : State) : Prop :=
  t.ph = .fetch ∧ t.cur.toNat = (s.cur.toNat + 1) % s.act.descriptors ∧ (t.cur = 0 → t.retryUsed = false)

/-- A run that ends at the next fetch may begin earlier in the pulse. -/
theorem Progress.atNext {n : Nat} {rest : List Turn} {rs : List Record} {s t u : State} (h : Progress n rest rs s t)
    (hcur : t.cur = s.cur) (hu : t.AtNext u) : s.AtNext u := by
  rwa [State.AtNext, ← hcur, ← h.act]

theorem progress_done {s : State} {rest : List Turn} (h : s.Inv) (hturns : s.turns = .background :: rest)
    (hph : s.ph = .done) : ∃ t, Progress 1 rest [] s t ∧ s.AtNext t := by
  have hstep := doneAdvancesTheRing s rest hturns hph
  obtain ⟨-, -, -, -, -, hnext⟩ := h.inFlight (by rw [hph]; rfl)
  exact ⟨_, Progress.of_step h hstep (List.append_nil _).symm ⟨rfl, rfl, rfl, rfl, rfl, rfl, rfl⟩,
    rfl, hnext, fun hzero => if_pos hzero⟩

/-! ### The rest of a pulse -/

theorem progress_from_hold {s : State} {rest : List Turn} (h : s.Inv)
    (hturns : s.turns = List.replicate 2 .background ++ rest) (hph : s.ph = .hold) :
    ∃ t, Progress 2 rest [] s t ∧ s.AtNext t := by
  obtain ⟨t, hhold, hph', hcur⟩ := progress_hold h hturns hph
  obtain ⟨u, hdone, hu⟩ := progress_done hhold.inv hhold.turns hph'
  exact ⟨u, hhold.trans hdone, hhold.atNext hcur hu⟩

theorem progress_from_latch {s : State} {rest : List Turn} (h : s.Inv)
    (hturns : s.turns = List.replicate 3 .background ++ rest) (hph : s.ph = .latch) :
    ∃ t, Progress 3 rest [s.record] s t ∧ s.AtNext t := by
  obtain ⟨t, hlatch, hph', hcur⟩ := progress_latch h hturns hph
  obtain ⟨u, hfinish, hu⟩ := progress_from_hold hlatch.inv hlatch.turns hph'
  exact ⟨u, hlatch.trans hfinish, hlatch.atNext hcur hu⟩

theorem replicate_add_append {m n : Nat} (a : Turn) (rest : List Turn) :
    List.replicate (m + n) a ++ rest = List.replicate m a ++ (List.replicate n a ++ rest) := by
  rw [List.replicate_add, List.append_assoc]

theorem progress_from_shift {k : Nat} {s : State} {rest : List Turn} (h : s.Inv) (hph : s.ph = .shift)
    (hk : s.shiftK.toNat + k = s.act.columns.toNat) (hturns : s.turns = List.replicate (k + 3) .background ++ rest) :
    ∃ t, Progress (k + 3) rest [s.record] s t ∧ s.AtNext t := by
  obtain ⟨t, hshift, hph', hcur⟩ := progress_shift h hph hk (hturns.trans (replicate_add_append ..))
  obtain ⟨u, hfinish, hu⟩ := progress_from_latch hshift.inv hshift.turns hph'
  rw [hshift.record hcur] at hfinish
  exact ⟨u, hshift.trans hfinish, hshift.atNext hcur hu⟩

/-- One pulse from its fetch to the next takes `columns + 4` turns and emits its record. -/
theorem progress_pulse {s : State} {rest : List Turn} (h : s.Inv) (hph : s.ph = .fetch) (hstop : s.stopReq = false)
    (hswap : s.pending = false) (hturns : s.turns = List.replicate (s.act.columns.toNat + 4) .background ++ rest) :
    ∃ t, Progress (s.act.columns.toNat + 4) rest [s.record] s t ∧ s.AtNext t := by
  obtain ⟨t, hfetch, hph', hk, hcur⟩ := progress_fetch h hturns hph hstop hswap
  have hwords : t.shiftK.toNat + s.act.columns.toNat = t.act.columns.toNat := by rw [hk, hfetch.act]; exact Nat.zero_add _
  obtain ⟨u, hfinish, hu⟩ := progress_from_shift hfetch.inv hph' hwords hfetch.turns
  rw [hfetch.record hcur] at hfinish
  refine ⟨u, ?_, hfetch.atNext hcur hu⟩
  rw [show s.act.columns.toNat + 4 = 1 + (s.act.columns.toNat + 3) by omega]
  exact hfetch.trans hfinish

/-! ### A complete cycle (rule R191) -/

/-- The first `j` pulses of a cycle from descriptor 0 emit the first `j` records of the ring. -/
theorem progress_pulses {s : State} (h : s.Inv) (hph : s.ph = .fetch) (hcur : s.cur = 0) (hstop : s.stopReq = false)
    (hswap : s.pending = false) {j : Nat} (hj : j ≤ s.act.descriptors) {rest : List Turn}
    (hturns : s.turns = List.replicate (j * (s.act.columns.toNat + 4)) .background ++ rest) :
    ∃ t, Progress (j * (s.act.columns.toNat + 4)) rest
        ((List.range j).map (pulseFor s.act s.active (s.buf s.active))) s t ∧
      t.ph = .fetch ∧ t.cur.toNat = j % s.act.descriptors ∧ (0 < j → t.cur = 0 → t.retryUsed = false) := by
  induction j generalizing rest with
  | zero =>
    rw [Nat.zero_mul] at hturns ⊢
    have hrest : s.turns = rest := hturns
    exact ⟨s, hrest ▸ Progress.refl h, hph, by rw [hcur, Nat.zero_mod]; rfl, fun hpos => absurd hpos (lt_irrefl 0)⟩
  | succ j ih =>
    rw [Nat.succ_mul] at hturns ⊢
    obtain ⟨t, hfirst, hph', hcur', -⟩ := ih (by omega) (hturns.trans (replicate_add_append ..))
    rw [Nat.mod_eq_of_lt (by omega)] at hcur'
    have hturns' : t.turns = List.replicate (t.act.columns.toNat + 4) .background ++ rest := by
      rw [hfirst.turns, hfirst.act]
    obtain ⟨u, hlast, hph'', hcur'', hretry⟩ :=
      progress_pulse hfirst.inv hph' (hfirst.stopReq.trans hstop) (hfirst.pending.trans hswap) hturns'
    rw [State.record, hfirst.act, hfirst.active, hfirst.buf, hcur'] at hlast
    refine ⟨u, ?_, hph'', by rw [hcur'', hcur', hfirst.act], fun _ => hretry⟩
    rw [List.range_succ, List.map_append]
    exact hfirst.trans hlast

/-- A swap is made once. -/
theorem State.boundary_boundary (s : State) : s.boundary.boundary = s.boundary := by
  obtain ⟨-, -, heq⟩ | ⟨hnone, heq⟩ := s.boundary_cases
  · rw [heq]; exact State.boundary_of_not (by simp)
  · rw [heq, State.boundary_of_not hnone]

theorem State.boundary_inTurn (s : State) (rest : List Turn) : (s.inTurn rest).boundary = s.boundary.inTurn rest := by
  obtain ⟨hcur, hpending, heq⟩ | ⟨hnone, heq⟩ := s.boundary_cases
  · rw [heq]; exact State.boundary_of_pending hcur hpending
  · rw [heq]; exact State.boundary_of_not hnone

/-- A fetch that makes a swap is the fetch of the state with the swap made (rule R187). -/
theorem step_boundary {s : State} {rest : List Turn} (hturns : s.turns = .background :: rest) (hst : s.st = .running)
    (hph : s.ph = .fetch) (hstop : s.stopReq = false) : step s.boundary = step s := by
  have hfetch : ∀ {u : State}, u.turns = .background :: rest → u.st = .running → u.ph = .fetch → u.stopReq = false →
      step u = (u.boundary.inTurn rest).loadDescriptor := by
    intro u huturns hust huph hustop
    rw [step_background huturns, background_of_fetch (s := u.inTurn rest) huph hust,
      bgFetch_of_not_stopReq (s := u.inTurn rest) hustop, State.boundary_inTurn]
  rw [hfetch hturns hst hph hstop, hfetch (s.boundary_turns.trans hturns) (s.boundary_st.trans hst)
    (s.boundary_ph.trans hph) (s.boundary_stopReq.trans hstop), State.boundary_boundary]

/-- Runs that begin with the same step are the same. -/
theorem run_congr_step {n : Nat} {s t : State} (hn : 0 < n) (h : step s = step t) :
    Sys2Proof.core.run n s = Sys2Proof.core.run n t := by
  cases n with
  | zero => exact absurd hn (lt_irrefl 0)
  | succ n =>
    have hstep : Sys2Proof.core.step s = Sys2Proof.core.step t := h
    simp only [Host.Core.run, hstep]

/-- At the boundary of a cycle no swap is left to make. -/
theorem State.boundary_pending {s : State} (hcur : s.cur = 0) : s.boundary.pending = false := by
  obtain ⟨-, -, heq⟩ | ⟨hnone, heq⟩ := s.boundary_cases
  · rw [heq]; rfl
  · rw [heq]; simpa [hcur] using hnone

theorem State.boundary_active {s : State} (hcur : s.cur = 0) :
    s.boundary.active = if s.pending = true then s.active.other else s.active := by
  cases hpending : s.pending
  case true => rw [State.boundary_of_pending hcur hpending]; rfl
  case false => rw [State.boundary_of_not (by simp [hpending])]; rfl

/-- Settles O56: with the swap made, the ring's pulses follow one another until `CUR` is 0 again. -/
theorem completeCycleEmitsTheRingInOrder : Obligations.CompleteCycleEmitsTheRingInOrder := by
  intro s rest h hst hph hcur hstop hturns
  have hpos : 0 < s.act.descriptors * (s.act.columns.toNat + 4) :=
    Nat.mul_pos (h.built_of_running hst).legal.descriptors_pos (Nat.succ_pos _)
  have hstart : step s.boundary = step s := by
    obtain ⟨n, hn⟩ := Nat.exists_eq_add_of_lt hpos
    rw [Nat.zero_add] at hn
    rw [hn] at hturns
    exact step_boundary hturns hst hph hstop
  obtain ⟨t, hcycle, hph', hcur', hretry⟩ := progress_pulses (h.boundary hph) (s.boundary_ph.trans hph)
    (s.boundary_cur.trans hcur) (s.boundary_stopReq.trans hstop) (State.boundary_pending hcur) (j := s.act.descriptors)
    (le_of_eq (congrArg ConfigRegs.descriptors s.boundary_act.symm)) (rest := rest)
    (by rw [s.boundary_turns, s.boundary_act, hturns])
  have hzero : t.cur = 0 := BitVec.eq_of_toNat_eq (by rw [hcur', s.boundary_act, Nat.mod_self]; rfl)
  have hbuf : s.buf t.active = s.boundary.buf s.boundary.active := by
    rw [hcycle.active, State.buf_congr s.boundary_bufA s.boundary_bufB]
  refine ⟨t, ?run, hcycle.active.trans (State.boundary_active hcur), ?records, hcycle.bufA.trans s.boundary_bufA,
    hcycle.bufB.trans s.boundary_bufB, hcycle.st.trans (s.boundary_st.trans hst), hph', hzero,
    hcycle.pending.trans (State.boundary_pending hcur), hretry (h.built_of_running hst).legal.descriptors_pos hzero,
    hcycle.turns⟩
  case run =>
    rw [← run_congr_step hpos hstart, ← s.boundary_act]
    rw [← s.boundary_act] at hcycle
    exact hcycle.run
  case records =>
    rw [hcycle.observed, s.boundary_observed, s.boundary_act, hbuf, ← hcycle.active]
    rfl

end Sys2Proof.Machine
end

section
/-! The end of a run and the beginning of one: a waiting `STOP` (spec/45_engine_control.md, rules R246 and R247), and the commands
of `NEW` (rule R100). -/

namespace Sys2Proof.Machine

/-! ### A waiting `STOP` -/

/-- Wherever a pulse stands, background turns complete it: its record is emitted if it was not yet. -/
theorem progress_to_fetch {s : State} {rest : List Turn} (h : s.Inv) (hflight : s.ph.inFlight = true)
    (hturns : s.turns = List.replicate (s.act.columns.toNat + 3) .background ++ rest) :
    ∃ n t, n ≤ s.act.columns.toNat + 3 ∧
      Progress n (List.replicate (s.act.columns.toNat + 3 - n) .background ++ rest)
        (if s.ph = .shift ∨ s.ph = .latch then [s.record] else []) s t ∧ s.AtNext t := by
  have hsplit : ∀ {n}, n ≤ s.act.columns.toNat + 3 → s.turns = List.replicate n .background ++
      (List.replicate (s.act.columns.toNat + 3 - n) .background ++ rest) := by
    intro n hn
    rw [hturns, ← replicate_add_append, Nat.add_sub_cancel' hn]
  cases hph : s.ph with
  | off => rw [hph] at hflight; cases hflight
  | fetch => rw [hph] at hflight; cases hflight
  | shift =>
    have hroom := h.pulse.room hph
    have hn : s.act.columns.toNat - s.shiftK.toNat + 3 ≤ s.act.columns.toNat + 3 := by omega
    obtain ⟨t, hrun, hnext⟩ := progress_from_shift h hph (by omega) (hsplit hn)
    exact ⟨_, t, hn, by simpa using hrun, hnext⟩
  | latch =>
    have hn : 3 ≤ s.act.columns.toNat + 3 := by omega
    obtain ⟨t, hrun, hnext⟩ := progress_from_latch h (hsplit hn) hph
    exact ⟨_, t, hn, by simpa using hrun, hnext⟩
  | hold =>
    have hn : 2 ≤ s.act.columns.toNat + 3 := by omega
    obtain ⟨t, hrun, hnext⟩ := progress_from_hold h (hsplit hn) hph
    exact ⟨_, t, hn, by simpa using hrun, hnext⟩
  | done =>
    have hn : 1 ≤ s.act.columns.toNat + 3 := by omega
    obtain ⟨t, hrun, hnext⟩ := progress_done h (hsplit hn) hph
    exact ⟨_, t, hn, by simpa using hrun, hnext⟩

/-- The fetch that honours the stop ends the run (rules R187 and R247). -/
theorem Progress.honourStop {n : Nat} {rest : List Turn} {rs : List Record} {s t : State}
    (h : Progress n (.background :: rest) rs s t) (hst : s.st = .running) (hstop : s.stopReq = true) (hph : t.ph = .fetch) :
    ∃ u, Sys2Proof.core.run (n + 1) s = .next u ∧ u.st = .stopped ∧ u.ph = .off ∧ u.stopReq = false ∧
      u.observed = s.observed ++ rs ++ [.rsp 0x00 0] ∧ u.cur = t.cur ∧ u.active = s.active ∧ u.pending = s.pending ∧
      u.bufA = s.bufA ∧ u.bufB = s.bufB := by
  obtain ⟨hhonour, -⟩ := fetchStopsAdoptsOrLoads t rest h.turns (h.st.trans hst) hph
  have hstep := hhonour (h.stopReq.trans hstop)
  exact ⟨_, (run_add h.run).trans (run_one hstep), rfl, rfl, rfl, congrArg (· ++ [Record.rsp 0x00 0]) h.observed, rfl,
    h.active, h.pending, h.bufA, h.bufB⟩

/-- Some turns of the background agent and one more begin with a turn of the background agent. -/
theorem exists_replicate_append_eq_cons (k : Nat) (a : Turn) (rest : List Turn) :
    ∃ rest', List.replicate k a ++ a :: rest = a :: rest' := by
  cases k with
  | zero => exact ⟨rest, rfl⟩
  | succ k => exact ⟨_, rfl⟩

/-- Settles O58: the pulse in flight is completed, and the fetch after it honours the stop. -/
theorem stopIsHonouredWithinOnePulse : Obligations.StopIsHonouredWithinOnePulse := by
  intro s rest h hst hstop hturns
  by_cases hfetch : s.ph = .fetch
  · have hidle : Progress 0 (.background :: (List.replicate (s.act.columns.toNat + 3) .background ++ rest)) [] s s := by
      have hrefl := Progress.refl h
      rwa [hturns] at hrefl
    obtain ⟨u, hrun, hst', hph', hstop', hobs, hcur, hrest⟩ := hidle.honourStop hst hstop hfetch
    exact ⟨1, u, Nat.succ_pos _, hrun, hst', hph', hstop', by simpa [hfetch] using hobs, by rw [hcur, if_pos hfetch], hrest⟩
  · have hflight : s.ph.inFlight = true := by
      have hoff := h.running.1 hst
      cases hph : s.ph <;> simp_all [Phase.inFlight]
    have hturns' : s.turns = List.replicate (s.act.columns.toNat + 3) .background ++ (.background :: rest) :=
      hturns.trans (replicate_add_append (m := s.act.columns.toNat + 3) (n := 1) ..)
    obtain ⟨n, t, hn, hpulse, hph, hcur, -⟩ := progress_to_fetch h hflight hturns'
    obtain ⟨rest', hcons⟩ := exists_replicate_append_eq_cons (s.act.columns.toNat + 3 - n) .background rest
    rw [hcons] at hpulse
    obtain ⟨u, hrun, hst', hph', hstop', hobs, hcur', hrest⟩ := hpulse.honourStop hst hstop hph
    exact ⟨n + 1, u, Nat.succ_le_succ hn, hrun, hst', hph', hstop', hobs, by rw [hcur', hcur, if_neg hfetch], hrest⟩

/-! ### The commands of `NEW` (rule R100) -/

/-- A step that takes the word of a well-formed command executes it. -/
theorem step_encode {s : State} {i : Instr} {rest : List Turn} (hi : i.wellFormed = true)
    (hturns : s.turns = .command (encode i) :: rest) (hready : s.stopReq = false) :
    step s = exec i { s.inTurn rest with cmd := encode i } :=
  stepExecutesTheDecodedCommand s _ rest i hturns hready (encodeThenDecodeReturnsTheCommand i hi)

/-- The staged registers after some writes, in order (rule R241). -/
def ConfigRegs.writes (c : ConfigRegs) : List (BitVec 8 × Reg32) → ConfigRegs
  | [] => c
  | (idx, v) :: ws => ConfigRegs.writes ((c.write idx v).getD c) ws

/-- `t` is `s` after a host has staged registers with the commands `ws`: each is answered `OK`, and the turns `rest` are left. -/
structure StagedTo (ws : List (BitVec 8 × Reg32)) (rest : List Turn) (s t : State) : Prop where
  run : Sys2Proof.core.run ws.length s = .next t
  st : t.st = s.st
  stopReq : t.stopReq = s.stopReq
  params : t.params = s.params
  cfg : t.cfg = s.cfg.writes ws
  turns : t.turns = rest
  observed : t.observed = s.observed ++ List.replicate ws.length (.rsp 0x00 0)

theorem stagedTo_one {s : State} {idx : BitVec 8} {v : Reg32} {rest : List Turn} (hidx : idx.toNat ≤ 6)
    (hst : s.st ≠ .running) (hready : s.stopReq = false)
    (hturns : s.turns = .command (encode (.wrcfg idx v)) :: rest) : ∃ t, StagedTo [(idx, v)] rest s t := by
  obtain ⟨c, hc⟩ := ConfigRegs.write_isSome hidx s.cfg v
  have hstep := (step_encode (i := .wrcfg idx v) (decide_eq_true hidx) hturns hready).trans
    (exec_wrcfg (c := c) hidx hst hc)
  have hcfg : s.cfg.writes [(idx, v)] = c := by rw [ConfigRegs.writes, hc]; rfl
  exact ⟨_, run_one hstep, rfl, rfl, rfl, hcfg.symm, rfl, rfl⟩

/-- A host that writes staged registers outside a run stages them one by one. -/
theorem exists_stagedTo {ws : List (BitVec 8 × Reg32)} (hidx : ∀ w ∈ ws, w.1.toNat ≤ 6) {s : State} {rest : List Turn}
    (hst : s.st ≠ .running) (hready : s.stopReq = false)
    (hturns : s.turns = ws.map (fun w => Turn.command (encode (.wrcfg w.1 w.2))) ++ rest) :
    ∃ t, StagedTo ws rest s t := by
  induction ws generalizing s with
  | nil => exact ⟨s, rfl, rfl, rfl, rfl, rfl, hturns, (List.append_nil _).symm⟩
  | cons w ws ih =>
    obtain ⟨idx, v⟩ := w
    obtain ⟨t, ht⟩ := stagedTo_one (hidx (idx, v) List.mem_cons_self) hst hready hturns
    obtain ⟨u, hu⟩ := ih (fun w hw => hidx w (List.mem_cons_of_mem _ hw)) (ht.st ▸ hst) (ht.stopReq.trans hready) ht.turns
    refine ⟨u, ?run, hu.st.trans ht.st, hu.stopReq.trans ht.stopReq, hu.params.trans ht.params, ?cfg, hu.turns, ?observed⟩
    case run => rw [List.length_cons, Nat.add_comm]; exact (run_add ht.run).trans hu.run
    case cfg => rw [hu.cfg, ht.cfg]; rfl
    case observed =>
      rw [hu.observed, ht.observed, List.length_cons, List.replicate_succ]
      exact List.append_assoc ..

/-- The seven writes of `NEW`, in the order of the registers. -/
def ConfigRegs.staging (c : ConfigRegs) : List (BitVec 8 × Reg32) :=
  [(0, c.rows), (1, c.columns), (2, c.depth), (3, c.gammaR), (4, c.gammaG), (5, c.gammaB), (6, c.baseTick)]

theorem expandNew_eq (c : ConfigRegs) :
    Assembler.expandNew c.rows c.columns c.depth c.gammaR c.gammaG c.gammaB c.baseTick =
      c.staging.map (fun w => .wrcfg w.1 w.2) ++ [.init] := rfl

/-- Whatever was staged before, the seven writes leave the configuration they name. -/
theorem ConfigRegs.writes_staging (c old : ConfigRegs) : old.writes c.staging = c := rfl

/-- Settles O59: seven writes stage the configuration, and `INIT` finds it legal. -/
theorem newBuildsTheConfiguration : Obligations.NewBuildsTheConfiguration := by
  intro s c rest hst hready hlegal hturns
  have hidx : ∀ w ∈ c.staging, w.1.toNat ≤ 6 := by simp [ConfigRegs.staging]
  rw [expandNew_eq, List.map_append, List.map_map, List.append_assoc] at hturns
  obtain ⟨t, hrun, hst', hready', hparams, hcfg, hturns', hobs⟩ := exists_stagedTo hidx hst hready hturns
  rw [ConfigRegs.writes_staging] at hcfg
  have hlegal' : t.cfg.Legal t.params := by rw [hcfg, hparams]; exact hlegal
  have hstep := (step_encode (i := .init) rfl hturns' (hready'.trans hready)).trans
    ((exec_init (s := { t.inTurn rest with cmd := encode .init }) (by rw [← hst'] at hst; exact hst)).trans
      (congrArg Host.Outcome.next (initialise_of_legal hlegal')))
  refine ⟨_, (run_add (m := 7) (n := 1) hrun).trans (run_one hstep), rfl, hcfg, hcfg, rfl, ?_⟩
  exact (congrArg (· ++ [Record.rsp 0x00 0]) hobs).trans (List.append_assoc ..)

end Sys2Proof.Machine
end
